-- ==== Sys2Proof/Word.lean ====
section
/-! DEFINITION. The word of the FD-416: 32 data bits (spec 00, Conventions), and the 39 bits of a stored
word (R107). -/

namespace Sys2Proof

/-- A word is 32 bits (spec 00, Conventions). -/
abbrev Word := BitVec 32

/-- One bit for each bit of a stored word: bits 31..0 stand for the data bits, bits 38..32 for the
check bits (R1, R107). -/
abbrev Bits39 := BitVec 39

end Sys2Proof
end

