-- ==== Sys2Proof/Syntax.lean ====
section
/-! DEFINITION. The commands of the FD-416: one constructor for each row of spec/opcode_table.json, in the
table's order. The arguments of a port's command are not operands: the part takes them from the port's
ARG words at the write of COMMAND (R192, log 6). -/

namespace Sys2Proof

/-- The four host ports (spec 00, Conventions). -/
inductive Port where
  | P0
  | P1
  | P2
  | P3
deriving DecidableEq, Repr, Inhabited

/-- The two kinds of window access (R86). -/
inductive Access where
  | read
  | write
deriving DecidableEq, Repr, Inhabited

/-- A command: a write of a port's COMMAND or another control word, a window access, an event at a pin,
the memory port or a timer. -/
inductive Instr where
  /-- PART_RESET: RSTn is asserted (R4). -/
  | partReset
  /-- RSTN_RELEASE: RSTn is released with this value on the strap pins MSZ1, MSZ0 (R1, R133). -/
  | rstnRelease (strap : Fin 4)
  /-- PORT_RESET: the port's PRSTn is asserted (R170). -/
  | portReset (p : Port)
  /-- PRSTN_RELEASE: the port's PRSTn is released (R164). -/
  | prstnRelease (p : Port)
  /-- ATTACH (R166): code 0x01. -/
  | attach (p : Port)
  /-- DETACH (R167): code 0x02. -/
  | detach (p : Port)
  /-- PROBE_FRAME (R17): code 0x03. -/
  | probeFrame (p : Port)
  /-- CLAIM (R23): code 0x10. -/
  | claim (p : Port)
  /-- CANCEL (R47): code 0x11. -/
  | cancel (p : Port)
  /-- RELEASE (R39): code 0x12. -/
  | release (p : Port)
  /-- SELECT_CONTEXT (R77): code 0x20. -/
  | selectContext (p : Port)
  /-- MAP_SET (R78): code 0x21. -/
  | mapSet (p : Port)
  /-- MAP_CLEAR (R81): code 0x22. -/
  | mapClear (p : Port)
  /-- MAP_CLEAR_ALL (R82): code 0x23. -/
  | mapClearAll (p : Port)
  /-- PROBE_PAGE (R83): code 0x24. -/
  | probePage (p : Port)
  /-- ACQUIRE_AUTHORITY (R141): code 0x30. -/
  | acquireAuthority (p : Port)
  /-- RENEW_AUTHORITY (R143): code 0x31. -/
  | renewAuthority (p : Port)
  /-- RELEASE_AUTHORITY (R145): code 0x32. -/
  | releaseAuthority (p : Port)
  /-- ASSIGN (R149): code 0x40. -/
  | assign (p : Port)
  /-- FORCE_RELEASE (R151): code 0x41. -/
  | forceRelease (p : Port)
  /-- PIN (R153): code 0x42. -/
  | pin (p : Port)
  /-- UNPIN (R154): code 0x43. -/
  | unpin (p : Port)
  /-- SCRUB (R155): code 0x44. -/
  | scrub (p : Port)
  /-- UNQUARANTINE (R158): code 0x45. -/
  | unquarantine (p : Port)
  /-- MAP_SET_FOR (R159): code 0x46. -/
  | mapSetFor (p : Port)
  /-- MAP_CLEAR_FOR (R159): code 0x47. -/
  | mapClearFor (p : Port)
  /-- SET_PARAMETER (R148): code 0x48. -/
  | setParameter (p : Port)
  /-- BAD_COMMAND (R193): a write to COMMAND of a code that names no command. -/
  | badCommand (p : Port) (code : Word)
  /-- PORT_STATUS_WRITE (R185). -/
  | portStatusWrite (p : Port) (value : Word)
  /-- INT_ENABLE_WRITE (R187). -/
  | intEnableWrite (p : Port) (value : Word)
  /-- EVENT_POP (R183): a write, whatever the value. -/
  | eventPop (p : Port) (value : Word)
  /-- REGISTER_WRITE (R191): a write of the control word at this index, one with no behaviour of its own. -/
  | registerWrite (p : Port) (index : Nat) (value : Word)
  /-- CONTROL_ACCESS_ERROR (R190): a control-region access beyond word 63, or running past it. -/
  | controlAccessError (p : Port) (access : Access) (addr : BitVec 21) (burst : Nat)
  /-- WINDOW_ACCESS (R86, R88): address, burst length 1 to 8, byte enables, and a write's data words. -/
  | windowAccess (p : Port) (access : Access) (addr : BitVec 21) (burst : Nat) (enables : BitVec 4)
      (data : List Word)
  /-- WINDOW_REQUEST_COMPLETE (R114): the window request in service is performed to its end. The upsets
  are the bits that failed in the array, for each word of the burst in order, since it was last written
  or read (none where the list ends; log 11). -/
  | windowRequestComplete (upsets : List Bits39)
  /-- UNCORRECTABLE_ERROR (R115): a word of the burst in service decodes UNCORRECTABLE. The upsets are as
  for WINDOW_REQUEST_COMPLETE. -/
  | uncorrectableError (upsets : List Bits39)
  /-- SCRUB_BURST_COMPLETE (R127): the scrub request in service completes. -/
  | scrubBurstComplete
  /-- REFRESH_TIMER_EXPIRY (R103). -/
  | refreshTimerExpiry
  /-- REFRESH_COMPLETE (R103). -/
  | refreshComplete
  /-- RECALL_DEADLINE (R61): the deadline of this frame's recall record. -/
  | recallDeadline (frame : Nat)
  /-- AUTHORITY_LEASE_EXPIRY (R144). -/
  | authorityLeaseExpiry
deriving DecidableEq, Repr

end Sys2Proof
end

