-- ==== Sys2Proof/Decode.lean ====
section
/-! DEFINITION. The command codes (R197): which row a write of COMMAND issues. The opcode table gives its
rows no bits, so no word of the table's numbering spells a command. -/

namespace Sys2Proof

/-- The command that the words of the opcode table spell: the table gives no row any bits. -/
def decodeTableWord (_nbits _w : Nat) : Option Instr := none

/-- The command that a write of this value to the port's COMMAND word issues (R192, R197); a code that is
not in the table is BAD_COMMAND (R193 check 1). -/
def issueOf (p : Port) (code : Word) : Instr :=
  match code.toNat with
  | 0x01 => .attach p
  | 0x02 => .detach p
  | 0x03 => .probeFrame p
  | 0x10 => .claim p
  | 0x11 => .cancel p
  | 0x12 => .release p
  | 0x20 => .selectContext p
  | 0x21 => .mapSet p
  | 0x22 => .mapClear p
  | 0x23 => .mapClearAll p
  | 0x24 => .probePage p
  | 0x30 => .acquireAuthority p
  | 0x31 => .renewAuthority p
  | 0x32 => .releaseAuthority p
  | 0x40 => .assign p
  | 0x41 => .forceRelease p
  | 0x42 => .pin p
  | 0x43 => .unpin p
  | 0x44 => .scrub p
  | 0x45 => .unquarantine p
  | 0x46 => .mapSetFor p
  | 0x47 => .mapClearFor p
  | 0x48 => .setParameter p
  | _ => .badCommand p code

/-- The value written to COMMAND by which a row is issued, for the rows that are commands of R197 and for
BAD_COMMAND. -/
def codeOf (i : Instr) : Option Word :=
  match i with
  | .attach _ => some 0x01
  | .detach _ => some 0x02
  | .probeFrame _ => some 0x03
  | .claim _ => some 0x10
  | .cancel _ => some 0x11
  | .release _ => some 0x12
  | .selectContext _ => some 0x20
  | .mapSet _ => some 0x21
  | .mapClear _ => some 0x22
  | .mapClearAll _ => some 0x23
  | .probePage _ => some 0x24
  | .acquireAuthority _ => some 0x30
  | .renewAuthority _ => some 0x31
  | .releaseAuthority _ => some 0x32
  | .assign _ => some 0x40
  | .forceRelease _ => some 0x41
  | .pin _ => some 0x42
  | .unpin _ => some 0x43
  | .scrub _ => some 0x44
  | .unquarantine _ => some 0x45
  | .mapSetFor _ => some 0x46
  | .mapClearFor _ => some 0x47
  | .setParameter _ => some 0x48
  | .badCommand _ code => some code
  | .partReset => none
  | .rstnRelease _ => none
  | .portReset _ => none
  | .prstnRelease _ => none
  | .portStatusWrite _ _ => none
  | .intEnableWrite _ _ => none
  | .eventPop _ _ => none
  | .registerWrite _ _ _ => none
  | .controlAccessError _ _ _ _ => none
  | .windowAccess _ _ _ _ _ _ => none
  | .windowRequestComplete _ => none
  | .uncorrectableError _ => none
  | .scrubBurstComplete => none
  | .refreshTimerExpiry => none
  | .refreshComplete => none
  | .recallDeadline _ => none
  | .authorityLeaseExpiry => none

/-- The port whose bus or pin a command comes from, if it comes from one. -/
def portOf (i : Instr) : Option Port :=
  match i with
  | .portReset p => some p
  | .prstnRelease p => some p
  | .attach p => some p
  | .detach p => some p
  | .probeFrame p => some p
  | .claim p => some p
  | .cancel p => some p
  | .release p => some p
  | .selectContext p => some p
  | .mapSet p => some p
  | .mapClear p => some p
  | .mapClearAll p => some p
  | .probePage p => some p
  | .acquireAuthority p => some p
  | .renewAuthority p => some p
  | .releaseAuthority p => some p
  | .assign p => some p
  | .forceRelease p => some p
  | .pin p => some p
  | .unpin p => some p
  | .scrub p => some p
  | .unquarantine p => some p
  | .mapSetFor p => some p
  | .mapClearFor p => some p
  | .setParameter p => some p
  | .badCommand p _ => some p
  | .portStatusWrite p _ => some p
  | .intEnableWrite p _ => some p
  | .eventPop p _ => some p
  | .registerWrite p _ _ => some p
  | .controlAccessError p _ _ _ => some p
  | .windowAccess p _ _ _ _ _ => some p
  | .partReset => none
  | .rstnRelease _ => none
  | .windowRequestComplete _ => none
  | .uncorrectableError _ => none
  | .scrubBurstComplete => none
  | .refreshTimerExpiry => none
  | .refreshComplete => none
  | .recallDeadline _ => none
  | .authorityLeaseExpiry => none

end Sys2Proof
end

