-- ==== Sys2Proof/Config.lean ====
section
/-! DEFINITION. What the manual leaves open, as constants without a body: nothing can evaluate them, so no
statement can rest on a value of theirs. -/

namespace Sys2Proof

/-- The verdict of the error code on a word that is read, with the place of the failing bit where the
code names one (R107). -/
inductive Verdict where
  | clean
  | corrected (bit : Fin 39)
  | uncorrectable
deriving DecidableEq, Repr, Inhabited

/-- FREE VALUE (log 10): the verdict on a pattern of three or more bits in error, which may be any of
the three (R107). The code is linear, so it depends on the pattern alone. -/
opaque Config.multiBitVerdict : Bits39 → Verdict

/-- FREE VALUE (log 3, log 4): the rank by which the part orders things that the manual does not order:
the frames of one departure (R168, R170), the timer events of one microsecond (R60). The first argument
is the draw, the second the thing. -/
opaque Config.freeRank : Nat → Nat → Nat

/-- FREE VALUE (log 16): whether the word at a place of a burst that part reset abandons had been
performed (R121). The first argument is the draw, the second the place. -/
opaque Config.abandonedWord : Nat → Nat → Bool

end Sys2Proof
end

