-- ==== Sys2Proof/Machine/State.lean ====
section
/-! DEFINITION. What the FD-416 holds, as plain data, and the state part reset leaves. -/

namespace Sys2Proof.Machine

/-- One value for each of the four ports. -/
structure PerPort (α : Type) where
  p0 : α
  p1 : α
  p2 : α
  p3 : α
deriving DecidableEq, Repr

/-- The value of one port. -/
def PerPort.get {α : Type} (v : PerPort α) (p : Port) : α :=
  match p with
  | .P0 => v.p0
  | .P1 => v.p1
  | .P2 => v.p2
  | .P3 => v.p3

/-- One port's value replaced. -/
def PerPort.set {α : Type} (v : PerPort α) (p : Port) (a : α) : PerPort α :=
  match p with
  | .P0 => { v with p0 := a }
  | .P1 => { v with p1 := a }
  | .P2 => { v with p2 := a }
  | .P3 => { v with p3 := a }

/-- The same value for every port. -/
def PerPort.all {α : Type} (a : α) : PerPort α := ⟨a, a, a, a⟩

/-- A set of ports: each present or absent (R3). -/
abbrev PortSet := PerPort Bool

/-- The two modes of a claim or a holding (spec 00, PRIVATE and SHARED). -/
inductive Mode where
  | priv
  | shared
deriving DecidableEq, Repr, Inhabited

/-- The seven frame states (R3). -/
inductive FrameState where
  | uninitialized
  | free
  | priv
  | shared
  | scrubbing
  | quarantined
  | poisoned
deriving DecidableEq, Repr, Inhabited

/-- A wait record in use (R20). -/
structure WaitRec where
  port : Port
  mode : Mode
  tag  : BitVec 8
  seq  : BitVec 64
deriving DecidableEq, Repr

/-- The recall field of a directory entry (R15): an active recall names its record's index (R52). -/
inductive RecallField where
  | none
  | active (index : Fin 8)
  | deferred
deriving DecidableEq, Repr

/-- A directory entry (R3). -/
structure Entry where
  state   : FrameState
  holders : PortSet
  pinned  : Bool
  queue   : List WaitRec
  recallField : RecallField
deriving DecidableEq, Repr

/-- The entry part reset gives every frame (R4). -/
def Entry.reset : Entry :=
  { state := .uninitialized, holders := PerPort.all false, pinned := false, queue := [],
    recallField := .none }

/-- The directory: the entries that differ from the reset entry, by frame number, frame numbers strictly
rising. A frame that is not listed has the reset entry. -/
abbrev Directory := List (Nat × Entry)

/-- A recall record in use (R52). -/
structure RecallRec where
  frame     : Nat
  requester : Port
  wanted    : Mode
  toRelease : PortSet
  deadline  : Nat
deriving DecidableEq, Repr

/-- An entry of the deferred recall list (R56). -/
structure Deferred where
  frame : Nat
  seq   : BitVec 64
deriving DecidableEq, Repr

/-- How a frame entered the scrub queue (R123). -/
inductive Origin where
  | sweep
  | promotion
  | release
  | command
deriving DecidableEq, Repr

/-- An entry of the scrub queue (R123). -/
structure ScrubEntry where
  frame  : Nat
  origin : Origin
  notify : Option Port
deriving DecidableEq, Repr

/-- The two map contexts of a port (R74). -/
inductive Context where
  | c0
  | c1
deriving DecidableEq, Repr, Inhabited

/-- A valid map entry (R74). -/
structure MapEntry where
  frame : Nat
  write : Bool
deriving DecidableEq, Repr

/-- One map context: its valid entries by logical page, pages strictly rising (R74). -/
abbrev MapTable := List (Nat × MapEntry)

/-- A window request (R90). -/
structure Request where
  port    : Port
  access  : Access
  frame   : Nat
  offset  : Nat
  burst   : Nat
  enables : BitVec 4
  data    : List Word
  context : Context
  page    : Nat
  addr    : Nat
deriving DecidableEq, Repr

/-- A scrub request (R101). -/
structure ScrubRequest where
  frame : Nat
  burst : Nat
deriving DecidableEq, Repr

/-- The request in service (R103, R104). A window request whose port was reset after the grant goes on,
its answer to be discarded (R114). -/
inductive Service where
  | window (r : Request) (discard : Bool)
  | scrub (r : ScrubRequest)
deriving DecidableEq, Repr

/-- The state of the memory port (R103). -/
inductive MemPort where
  | idle
  | serving (service : Service)
  | refresh
deriving DecidableEq, Repr

/-- The five requesters of the arbiter (R101). -/
inductive Requester where
  | port (p : Port)
  | scrub
deriving DecidableEq, Repr

/-- A stored word: the data last written, and the bits of the 39 that have failed since (log 10). The bits
the array holds are the codeword of the data with the failed bits inverted (R107). -/
structure Stored where
  data   : Word
  failed : Bits39
deriving DecidableEq, Repr

/-- What a word reads as that nothing has written: the codeword of zero (log 9). -/
def Stored.zero : Stored := { data := 0, failed := 0 }

/-- The external array: the words that differ from the zero codeword, by the byte address of the word,
addresses strictly rising (R1, log 9). -/
abbrev Memory := List (Nat × Stored)

/-- Causes of a window fault (R100). -/
inductive FaultCause where
  | unmapped
  | writeProtect
  | boundary
  | stale
  | writeShared
  | poisoned
  | uncorrectable
deriving DecidableEq, Repr

/-- Causes of a revocation (R63). -/
inductive RevokeCause where
  | timeout
  | authority
  | scrub
deriving DecidableEq, Repr

/-- An event record (R179). The one cause of a REFUSED record is POISONED (R50). -/
inductive EventRecord where
  | grant (frame : Nat) (mode : Mode) (tag : BitVec 8) (forced assigned upgraded : Bool)
  | recallNotice (frame : Nat) (requester : Port) (wanted : Mode) (timeout : Nat)
  | revoked (frame : Nat) (cause : RevokeCause)
  | poisoned (frame : Nat)
  | refused (frame : Nat) (tag : BitVec 8)
  | fault (addr : Nat) (context : Context) (access : Access) (burst : Nat) (cause : FaultCause)
  | quarantined (frame : Nat) (formerHolder : Port)
  | scrubDone (frame : Nat)
  | authorityLapsed
deriving DecidableEq, Repr

/-- Four words: ARG0 to ARG3, RESULT0 to RESULT3 (R162), or the words of an event record (R200). -/
structure Words4 where
  w0 : Word
  w1 : Word
  w2 : Word
  w3 : Word
deriving DecidableEq, Repr

/-- Four words of zero. -/
def Words4.zero : Words4 := ⟨0, 0, 0, 0⟩

/-- The answer of a port bus transaction: PnERR, and the data words a read delivered (R99, R114, log 8). -/
structure BusAnswer where
  error : Bool
  data  : List Word
deriving DecidableEq, Repr

/-- What belongs to one port: its port unit (R162), its maps (R74), its waiting count (R21), its request
waiting at the arbiter (R101), the access whose posting waits for the port's request from before its
reset to complete (R101, log 20), and its PRSTn pin (R164). -/
structure PortUnit where
  prst      : Bool
  online    : Bool
  args      : Words4
  command   : Word
  results   : Words4
  events    : List EventRecord
  overrun   : Bool
  intEnable : Bool
  holding   : Nat
  waiting   : Nat
  map0      : MapTable
  map1      : MapTable
  context   : Context
  request   : Option Request
  held      : Option Request
  answer    : Option BusAnswer
deriving DecidableEq, Repr

/-- A port unit after part reset (R162, R21, R75), with its PRSTn pin as given. -/
def PortUnit.reset (prst : Bool) : PortUnit :=
  { prst := prst, online := false, args := Words4.zero, command := 0, results := Words4.zero, events := [],
    overrun := false, intEnable := false, holding := 0, waiting := 0, map0 := [], map1 := [],
    context := .c0, request := none, held := none, answer := none }

/-- Everything the spec gives the part, the external array, and the queue of waiting commands. `draws` is
the model's own: the counter that the free values are applied to. -/
structure State where
  rstAsserted      : Bool
  now              : Nat
  frames           : Nat
  dir              : Directory
  uninitCount      : Nat
  quarantinedCount : Nat
  poisonedCount    : Nat
  poolFree         : Nat
  arrival          : BitVec 64
  recalls          : Vector (Option RecallRec) 8
  deferred         : List Deferred
  token            : Option Port
  leaseDeadline    : Nat
  recallTimeout    : Nat
  leaseParam       : Nat
  scrubQueue       : List ScrubEntry
  burst            : Nat
  sweepComplete    : Bool
  scrubRequest     : Option ScrubRequest
  memPort          : MemPort
  arbiter          : Requester
  refreshDue       : Bool
  refreshAt        : Nat
  refreshEnd       : Nat
  memory           : Memory
  ports            : PerPort PortUnit
  draws            : Nat
  pending          : List Instr
deriving DecidableEq, Repr

/-- Reasons for which the machine stops with a fault: there is none. The spec gives every command an
effect, and no command of the part stops it. -/
inductive Fault where
deriving DecidableEq, Repr

/-- Reasons for which a command has no meaning. -/
inductive Refusal where
  /-- Raised by `exec` alone, for a command whose meaning is not written yet. Safe: the run stops. -/
  | notModelled (mnemonic : String)
deriving DecidableEq, Repr

/-- What part reset leaves, for a given number of frames, time, array contents, pins of the four PRSTn,
draws and waiting commands: the things part reset does not set (R4, R16, R19 to R21, R52, R75, R102, R103,
R121, R123, R135, R140, R147, R162). -/
def State.afterPartReset (frames now : Nat) (memory : Memory) (prst : PerPort Bool) (draws : Nat)
    (pending : List Instr) : State :=
  { rstAsserted := true, now := now, frames := frames, dir := [], uninitCount := frames,
    quarantinedCount := 0, poisonedCount := 0, poolFree := 32, arrival := 0,
    recalls := Vector.replicate 8 none, deferred := [], token := none, leaseDeadline := 0,
    recallTimeout := 1000, leaseParam := 250, scrubQueue := [], burst := 0, sweepComplete := false,
    scrubRequest := none, memPort := .idle, arbiter := .port .P0, refreshDue := false,
    refreshAt := now + 7, refreshEnd := 0, memory := memory,
    ports := ⟨PortUnit.reset prst.p0, PortUnit.reset prst.p1, PortUnit.reset prst.p2,
      PortUnit.reset prst.p3⟩,
    draws := draws, pending := pending }

/-- The machine right after reset: RSTn still asserted, no command waiting. The next event of a run is
RSTN_RELEASE, which samples the strap; until then F stands at 1024 (log 1). -/
def State.reset : State := State.afterPartReset 1024 0 [] (PerPort.all false) 0 []

end Sys2Proof.Machine
end

