-- ==== Sys2Proof/Machine/Ops.lean ====
section
/-! DEFINITION. The named operations over what the part holds: sparse lists, port sets, directory entries
and the counts that follow them, event queues, wait records, map entries, the array. -/

namespace Sys2Proof.Machine

/-! ### Sparse lists -/

/-- The value listed at a key. -/
def Sparse.find? {α : Type} : List (Nat × α) → Nat → Option α
  | [], _ => none
  | (k, v) :: t, a => if a = k then some v else Sparse.find? t a

/-- The list without a key. -/
def Sparse.erase {α : Type} (l : List (Nat × α)) (a : Nat) : List (Nat × α) :=
  l.filter (fun c => c.1 != a)

/-- A value placed before the first greater key. -/
def Sparse.insert {α : Type} : List (Nat × α) → Nat → α → List (Nat × α)
  | [], a, v => [(a, v)]
  | (k, w) :: t, a, v => if a < k then (a, v) :: (k, w) :: t else (k, w) :: Sparse.insert t a v

/-- A key's value replaced, or added in its place. -/
def Sparse.put {α : Type} (l : List (Nat × α)) (a : Nat) (v : α) : List (Nat × α) :=
  Sparse.insert (Sparse.erase l a) a v

/-- Keys strictly rising. -/
abbrev Sparse.rising {α : Type} (l : List (Nat × α)) : Prop :=
  l.Pairwise (fun a b => a.1 < b.1)

/-! ### Ports and port sets -/

/-- The ports in the order of their numbers. -/
def allPorts : List Port := [.P0, .P1, .P2, .P3]

/-- The number of a port (spec 00, Ports). -/
def portNumber (p : Port) : Nat :=
  match p with
  | .P0 => 0
  | .P1 => 1
  | .P2 => 2
  | .P3 => 3

/-- The port of a number (R198 gives ports their numbers as encoding). -/
def portOfNumber (n : Nat) : Option Port :=
  match n with
  | 0 => some .P0
  | 1 => some .P1
  | 2 => some .P2
  | 3 => some .P3
  | _ => none

/-- The set of no port. -/
def noPorts : PortSet := PerPort.all false

/-- The set of one port. -/
def onePort (p : Port) : PortSet := noPorts.set p true

/-- A set has no member. -/
def setIsEmpty (ps : PortSet) : Bool := ps == noPorts

/-- The members of a set, in the order of their numbers. -/
def members (ps : PortSet) : List Port := allPorts.filter (fun p => ps.get p)

/-! ### Port units -/

/-- A port's unit. -/
def State.unit (s : State) (p : Port) : PortUnit := s.ports.get p

/-- A port's unit replaced. -/
def State.setUnit (s : State) (p : Port) (u : PortUnit) : State := { s with ports := s.ports.set p u }

/-- A port's result words written (R192). -/
def State.setResults (s : State) (p : Port) (r : Words4) : State :=
  s.setUnit p { s.unit p with results := r }

/-- The end of a port's bus transaction: the error response and the data words (R99, R114, R190). -/
def State.answerBus (s : State) (p : Port) (error : Bool) (data : List Word) : State :=
  s.setUnit p { s.unit p with answer := some ⟨error, data⟩ }

/-- A port's request is in service at the memory port, its answer wanted or not (R101). -/
def State.inService (s : State) (p : Port) : Bool :=
  match s.memPort with
  | .serving (.window r _) => r.port == p
  | _ => false

/-- A port has a window access on its bus that has not been answered: its request waits at the arbiter or to
be posted, or is in service with its answer still wanted (R87, R101, R114). A request from before the
port's reset is no transaction of the bus (R114), though its requester has it outstanding (R101). -/
def State.outstanding (s : State) (p : Port) : Bool :=
  (s.unit p).request.isSome || (s.unit p).held.isSome ||
    (match s.memPort with
     | .serving (.window r discard) => r.port == p && !discard
     | _ => false)

/-- A transaction can arrive from a port: neither reset is asserted (R164), and no transaction of the port
is outstanding (R87). -/
def State.busServed (s : State) (p : Port) : Bool :=
  !s.rstAsserted && !(s.unit p).prst && !s.outstanding p

/-! ### Event queues -/

/-- A record is queued to a port: dropped if the port is OFFLINE (R165, R180), discarded with OVERRUN set
if the queue holds 16 (R181), joined at the tail otherwise (R178). -/
def postUnit (u : PortUnit) (r : EventRecord) : PortUnit :=
  if u.online then
    if u.events.length < 16 then { u with events := u.events ++ [r] } else { u with overrun := true }
  else u

/-- A record is queued to a port (R180). -/
def State.post (s : State) (p : Port) (r : EventRecord) : State := s.setUnit p (postUnit (s.unit p) r)

/-- One record is queued to each port of a list, in its order. -/
def State.postList (s : State) (ps : List Port) (r : EventRecord) : State :=
  ps.foldl (fun t p => t.post p r) s

/-- One record is queued to each port of a set. -/
def State.postSet (s : State) (ps : PortSet) (r : EventRecord) : State := s.postList (members ps) r

/-! ### Directory entries -/

/-- A frame's directory entry. -/
def State.entry (s : State) (f : Nat) : Entry := (Sparse.find? s.dir f).getD Entry.reset

/-- The directory with one entry replaced; an entry equal to the reset entry is not listed. -/
def putDirectory (dir : Directory) (f : Nat) (e : Entry) : Directory :=
  if e = Entry.reset then Sparse.erase dir f else Sparse.put dir f e

/-- A count follows one thing: up by one when it comes to hold, down by one when it ceases to. -/
def countChange (was is : Bool) (n : Nat) : Nat :=
  match was, is with
  | false, true => n + 1
  | true, false => n - 1
  | _, _ => n

/-- The holding counts follow the holder set (R163). -/
def holdingChange (old new : Entry) (ports : PerPort PortUnit) : PerPort PortUnit :=
  { p0 := { ports.p0 with holding := countChange old.holders.p0 new.holders.p0 ports.p0.holding }
    p1 := { ports.p1 with holding := countChange old.holders.p1 new.holders.p1 ports.p1.holding }
    p2 := { ports.p2 with holding := countChange old.holders.p2 new.holders.p2 ports.p2.holding }
    p3 := { ports.p3 with holding := countChange old.holders.p3 new.holders.p3 ports.p3.holding } }

/-- A frame's directory entry replaced. The state counts (R16), the sweep-complete status (R135: set in the
change that brings the UNINITIALIZED count to 0) and the holding counts (R163) follow it. -/
def State.putEntry (s : State) (f : Nat) (e : Entry) : State :=
  let old := s.entry f
  let uninit :=
    countChange (old.state == .uninitialized) (e.state == .uninitialized) s.uninitCount
  { s with
    dir := putDirectory s.dir f e
    uninitCount := uninit
    quarantinedCount :=
      countChange (old.state == .quarantined) (e.state == .quarantined) s.quarantinedCount
    poisonedCount := countChange (old.state == .poisoned) (e.state == .poisoned) s.poisonedCount
    sweepComplete :=
      s.sweepComplete ||
        (old.state == .uninitialized && e.state != .uninitialized && uninit == 0)
    ports := holdingChange old e s.ports }

/-- A frame is in use: PRIVATE or SHARED. -/
def inUse (st : FrameState) : Bool := st == .priv || st == .shared

/-- The state of a frame held in a mode (R13). -/
def heldState (m : Mode) : FrameState :=
  match m with
  | .priv => .priv
  | .shared => .shared

/-- The first number of `n` numbers from `k` on that has a property. -/
def firstFrom (has : Nat → Bool) : Nat → Nat → Option Nat
  | 0, _ => none
  | n + 1, k => if has k then some k else firstFrom has n (k + 1)

/-- The lowest-numbered frame in a state (R133, R142). -/
def State.lowestInState (s : State) (st : FrameState) : Option Nat :=
  firstFrom (fun f => (s.entry f).state == st) s.frames 0

/-! ### Wait records -/

/-- A wait record is taken from the pool for a port (R20, R21, R25): the record's number is the arrival
count, which is raised by one (log 22, log 26). -/
def State.takeRecord (s : State) (p : Port) : State :=
  { s.setUnit p { s.unit p with waiting := (s.unit p).waiting + 1 } with
    poolFree := s.poolFree - 1
    arrival := s.arrival + 1 }

/-- A wait record of a port goes back to the pool (R21, R22). -/
def State.returnRecord (s : State) (p : Port) : State :=
  { s.setUnit p { s.unit p with waiting := (s.unit p).waiting - 1 } with poolFree := s.poolFree + 1 }

/-- A port has a waiting claim in a queue. -/
def waitsIn (q : List WaitRec) (p : Port) : Bool := q.any (fun w => w.port == p)

/-- A port's waiting claim is the head of a queue. -/
def isHead (q : List WaitRec) (p : Port) : Bool :=
  match q with
  | [] => false
  | h :: _ => h.port == p

/-! ### Map entries -/

/-- The map of a context (R74). -/
def PortUnit.mapOf (u : PortUnit) (c : Context) : MapTable :=
  match c with
  | .c0 => u.map0
  | .c1 => u.map1

/-- The map of a context replaced. -/
def PortUnit.setMap (u : PortUnit) (c : Context) (m : MapTable) : PortUnit :=
  match c with
  | .c0 => { u with map0 := m }
  | .c1 => { u with map1 := m }

/-- A port's map entry for a page, absent while it is not valid (R74). -/
def State.mapEntry (s : State) (p : Port) (c : Context) (page : Nat) : Option MapEntry :=
  Sparse.find? ((s.unit p).mapOf c) page

/-- A port's map entry made not valid (R81). -/
def State.clearMap (s : State) (p : Port) (c : Context) (page : Nat) : State :=
  s.setUnit p ((s.unit p).setMap c (Sparse.erase ((s.unit p).mapOf c) page))

/-- A port's map entry written (R79). -/
def State.writeMap (s : State) (p : Port) (c : Context) (page : Nat) (m : MapEntry) : State :=
  s.setUnit p ((s.unit p).setMap c (Sparse.put ((s.unit p).mapOf c) page m))

/-! ### The array -/

/-- The stored word at a byte address (R107). -/
def readStored (m : Memory) (a : Nat) : Stored := (Sparse.find? m a).getD Stored.zero

/-- The stored word at a byte address replaced; a zero codeword is not listed. -/
def writeStored (m : Memory) (a : Nat) (v : Stored) : Memory :=
  if v = Stored.zero then Sparse.erase m a else Sparse.put m a v

/-- The canonical form of the array: addresses strictly rising, no zero codeword listed. -/
abbrev Memory.wf (m : Memory) : Prop := Sparse.rising m ∧ ∀ c ∈ m, c.2 ≠ Stored.zero

/-- The canonical form of the directory. -/
abbrev Directory.wf (d : Directory) : Prop := Sparse.rising d ∧ ∀ c ∈ d, c.2 ≠ Entry.reset

/-! ### Free orders -/

/-- A thing placed by rank. -/
def placeByRank (rank : Nat → Nat) (x : Nat) : List Nat → List Nat
  | [] => [x]
  | y :: t => if rank x ≤ rank y then x :: y :: t else y :: placeByRank rank x t

/-- A list in the order of a rank: a permutation of it, whatever the rank. -/
def sortByRank (rank : Nat → Nat) : List Nat → List Nat
  | [] => []
  | x :: t => placeByRank rank x (sortByRank rank t)

/-- A list in a free order (log 3, log 4), and the draw used up. -/
def State.freeOrder (s : State) (l : List Nat) : List Nat := sortByRank (Config.freeRank s.draws) l

/-- A draw is used up. -/
def State.nextDraw (s : State) : State := { s with draws := s.draws + 1 }

end Sys2Proof.Machine
end

