-- ==== Sys2Proof/WellFormed.lean ====
section
/-! DEFINITION. Which commands name something the part can be given: operand ranges, and operands that
belong to the row and not to another. -/

namespace Sys2Proof

/-- A code names no command (R193 check 1). -/
def codeIsBad (p : Port) (code : Word) : Bool := issueOf p code == .badCommand p code

/-- A control word with no behaviour of its own: neither PORT_STATUS, INT_ENABLE, COMMAND nor EVENT_POP
(R191, R195). -/
def plainRegister (index : Nat) : Bool :=
  index < 64 && index != 1 && index != 2 && index != 8 && index != 21

/-- A window access begins below 0x10_0000 (R86). -/
def inWindow (addr : BitVec 21) : Bool := addr.toNat < 0x100000

/-- The control-region word index of an address (R190). -/
def controlIndex (addr : BitVec 21) : Nat := (addr.toNat - 0x100000) / 4

/-- A burst has 1 to 8 words (R86, R190). -/
def burstInRange (burst : Nat) : Bool := 1 ≤ burst && burst ≤ 8

/-- A command whose operands fit its row. -/
def Instr.wellFormed (i : Instr) : Bool :=
  match i with
  | .badCommand p code => codeIsBad p code
  | .registerWrite _ index _ => plainRegister index
  | .controlAccessError _ _ addr burst =>
    !inWindow addr && burstInRange burst && 64 < controlIndex addr + burst
  | .windowAccess _ access addr burst _ data =>
    inWindow addr && burstInRange burst &&
      (match access with
       | .read => data.isEmpty
       | .write => data.length == burst)
  | _ => true

end Sys2Proof
end

