-- ==== Sys2Proof/Machine/Operands.lean ====
section
/-! DEFINITION. The encodings of R194 and R198, the packing of result words (R199), the words of an event
record (R200), and the arguments of commands with their ranges (R193 check 4, R197). -/

namespace Sys2Proof.Machine

/-! ### Encodings -/

/-- The result codes (R194). -/
inductive ResultCode where
  | ok
  | pending
  | badCommand
  | offline
  | denied
  | range
  | busy
  | limit
  | duplicate
  | notHeld
  | pinned
  | unavailable
  | holding
  | state
deriving DecidableEq, Repr

/-- The value of a result code (R194). -/
def ResultCode.value (c : ResultCode) : Nat :=
  match c with
  | .ok => 0
  | .pending => 1
  | .badCommand => 2
  | .offline => 3
  | .denied => 4
  | .range => 5
  | .busy => 6
  | .limit => 7
  | .duplicate => 8
  | .notHeld => 9
  | .pinned => 10
  | .unavailable => 11
  | .holding => 12
  | .state => 13

/-- Frame states (R198). -/
def stateCode (st : FrameState) : Nat :=
  match st with
  | .uninitialized => 0
  | .free => 1
  | .priv => 2
  | .shared => 3
  | .scrubbing => 4
  | .quarantined => 5
  | .poisoned => 6

/-- Modes (R198). -/
def modeCode (m : Mode) : Nat :=
  match m with
  | .priv => 1
  | .shared => 2

/-- A held mode or a head mode: NONE is 0 (R198). -/
def heldCode (m : Option Mode) : Nat :=
  match m with
  | none => 0
  | some m => modeCode m

/-- The outcomes of a claim that is taken (R24). -/
inductive ClaimOutcome where
  | granted
  | joined
  | upgraded
  | downgraded
  | held
  | queued
deriving DecidableEq, Repr

/-- Claim outcomes (R198). -/
def outcomeCode (o : ClaimOutcome) : Nat :=
  match o with
  | .granted => 1
  | .joined => 2
  | .upgraded => 3
  | .downgraded => 4
  | .held => 5
  | .queued => 6

/-- Fault causes; as an access outcome PROCEED is 0 (R198). -/
def causeCode (c : FaultCause) : Nat :=
  match c with
  | .unmapped => 1
  | .writeProtect => 2
  | .boundary => 3
  | .stale => 4
  | .writeShared => 5
  | .poisoned => 6
  | .uncorrectable => 7

/-- An access outcome of PROBE_PAGE: PROCEED or a fault cause (R83, R198). -/
def accessOutcomeCode (c : Option FaultCause) : Nat :=
  match c with
  | none => 0
  | some c => causeCode c

/-- Revocation causes (R198). -/
def revokeCode (c : RevokeCause) : Nat :=
  match c with
  | .timeout => 1
  | .authority => 2
  | .scrub => 3

/-- Kinds of access (R198). -/
def accessCode (a : Access) : Nat :=
  match a with
  | .read => 0
  | .write => 1

/-- The number of a context (R74). -/
def contextNumber (c : Context) : Nat :=
  match c with
  | .c0 => 0
  | .c1 => 1

/-- A port set: bit n is port Pn (R198). -/
def setCode (ps : PortSet) : Nat :=
  ps.p0.toNat + 2 * ps.p1.toNat + 4 * ps.p2.toNat + 8 * ps.p3.toNat

/-! ### Packing -/

/-- Fields packed from bit 0 upward, each as (width, value), a value cut to its width (R199). -/
def packNat : List (Nat × Nat) → Nat
  | [] => 0
  | (w, v) :: t => v % 2 ^ w + 2 ^ w * packNat t

/-- Fields packed into a result word (R199). -/
def pack (fields : List (Nat × Nat)) : Word := BitVec.ofNat 32 (packNat fields)

/-- The fields of R199 by kind. -/
def fFrame (v : Nat) : Nat × Nat := (14, v)

/-- A frame state, 4 bits (R199). -/
def fState (v : FrameState) : Nat × Nat := (4, stateCode v)

/-- A mode, 2 bits (R199). -/
def fMode (v : Mode) : Nat × Nat := (2, modeCode v)

/-- A held mode or head mode, 2 bits (R199). -/
def fHeld (v : Option Mode) : Nat × Nat := (2, heldCode v)

/-- A port, 2 bits (R199). -/
def fPort (v : Port) : Nat × Nat := (2, portNumber v)

/-- A flag, 1 bit (R199). -/
def fFlag (v : Bool) : Nat × Nat := (1, v.toNat)

/-- A context, 1 bit (R199). -/
def fContext (v : Context) : Nat × Nat := (1, contextNumber v)

/-- A page, 9 bits (R199). -/
def fPage (v : Nat) : Nat × Nat := (9, v)

/-- A port set, 4 bits (R199). -/
def fSet (v : PortSet) : Nat × Nat := (4, setCode v)

/-- A tag, a parameter id or a small count, 8 bits (R199). -/
def fSmall (v : Nat) : Nat × Nat := (8, v)

/-- A large count, a time or a parameter value, 16 bits (R199). -/
def fLarge (v : Nat) : Nat × Nat := (16, v)

/-- A map entry as result words report it: valid, frame, write; 0 and read-only when not valid (R74). -/
def entryFields (m : Option MapEntry) : List (Nat × Nat) :=
  match m with
  | none => [fFlag false, fFrame 0, fFlag false]
  | some m => [fFlag true, fFrame m.frame, fFlag m.write]

/-- The four words of an event record (R200). -/
def recordWords (r : EventRecord) : Words4 :=
  match r with
  | .grant f mode tag forced assigned upgraded =>
    ⟨1, pack [fFrame f], tag.setWidth 32,
      pack [fMode mode, (6, 0), fFlag forced, fFlag assigned, fFlag upgraded]⟩
  | .recallNotice f requester wanted timeout =>
    ⟨2, pack [fFrame f], pack [fPort requester, (6, 0), fMode wanted], pack [fLarge timeout]⟩
  | .revoked f cause => ⟨3, pack [fFrame f], pack [(2, revokeCode cause)], 0⟩
  | .poisoned f => ⟨4, pack [fFrame f], 0, 0⟩
  | .refused f tag => ⟨5, pack [fFrame f], tag.setWidth 32, 1⟩
  | .fault addr context access burst cause =>
    ⟨6, pack [(21, addr)], pack [fContext context, (7, 0), (1, accessCode access)],
      pack [(4, burst), (4, 0), (4, causeCode cause)]⟩
  | .quarantined f former => ⟨7, pack [fFrame f], pack [fPort former], 0⟩
  | .scrubDone f => ⟨8, pack [fFrame f], 0, 0⟩
  | .authorityLapsed => ⟨9, 0, 0, 0⟩

/-! ### Arguments -/

/-- The value of an argument word of a port (R191). -/
def State.arg (s : State) (p : Port) (n : Fin 4) : Nat :=
  match n with
  | 0 => (s.unit p).args.w0.toNat
  | 1 => (s.unit p).args.w1.toNat
  | 2 => (s.unit p).args.w2.toNat
  | 3 => (s.unit p).args.w3.toNat

/-- A frame argument: 0 to F-1 (R2, R197). -/
def frameArg (s : State) (v : Nat) : Option Nat := if v < s.frames then some v else none

/-- A mode argument: 1 PRIVATE or 2 SHARED (R197). -/
def modeArg (v : Nat) : Option Mode :=
  match v with
  | 1 => some .priv
  | 2 => some .shared
  | _ => none

/-- A tag argument: 0 to 255 (R197). -/
def tagArg (v : Nat) : Option (BitVec 8) := if v < 256 then some (BitVec.ofNat 8 v) else none

/-- A yes/no argument: 0 or 1 (R197); clear, and write with 1 read-write. -/
def flagArg (v : Nat) : Option Bool :=
  match v with
  | 0 => some false
  | 1 => some true
  | _ => none

/-- A context argument: 0 or 1 (R197). -/
def contextArg (v : Nat) : Option Context :=
  match v with
  | 0 => some .c0
  | 1 => some .c1
  | _ => none

/-- A page argument: 0 to 511 (R197). -/
def pageArg (v : Nat) : Option Nat := if v < 512 then some v else none

/-- The arguments of CLAIM: frame, mode, tag (R197). -/
def claimArgs (s : State) (p : Port) : Option (Nat × Mode × BitVec 8) := do
  let f ← frameArg s (s.arg p 0)
  let m ← modeArg (s.arg p 1)
  let t ← tagArg (s.arg p 2)
  return (f, m, t)

/-- The arguments of RELEASE: frame, clear (R197). -/
def releaseArgs (s : State) (p : Port) : Option (Nat × Bool) := do
  let f ← frameArg s (s.arg p 0)
  let c ← flagArg (s.arg p 1)
  return (f, c)

/-- The argument of the commands that name one frame in ARG0 (R197). -/
def frameArgs (s : State) (p : Port) : Option Nat := frameArg s (s.arg p 0)

/-- The argument of SELECT_CONTEXT and MAP_CLEAR_ALL: context (R197). -/
def contextArgs (s : State) (p : Port) : Option Context := contextArg (s.arg p 0)

/-- The arguments of MAP_CLEAR and PROBE_PAGE: context, page (R197). -/
def pageArgs (s : State) (p : Port) : Option (Context × Nat) := do
  let c ← contextArg (s.arg p 0)
  let g ← pageArg (s.arg p 1)
  return (c, g)

/-- The arguments of MAP_SET: context, page, frame, write (R197). -/
def mapSetArgs (s : State) (p : Port) : Option (Context × Nat × Nat × Bool) := do
  let c ← contextArg (s.arg p 0)
  let g ← pageArg (s.arg p 1)
  let f ← frameArg s (s.arg p 2)
  let w ← flagArg (s.arg p 3)
  return (c, g, f, w)

/-- The arguments of ASSIGN: frame, port, mode (R197). -/
def assignArgs (s : State) (p : Port) : Option (Nat × Port × Mode) := do
  let f ← frameArg s (s.arg p 0)
  let q ← portOfNumber (s.arg p 1)
  let m ← modeArg (s.arg p 2)
  return (f, q, m)

/-- The arguments of FORCE_RELEASE: frame, port (R197). -/
def forceArgs (s : State) (p : Port) : Option (Nat × Port) := do
  let f ← frameArg s (s.arg p 0)
  let q ← portOfNumber (s.arg p 1)
  return (f, q)

/-- The arguments of MAP_SET_FOR: port, context, page, frame in bits 15:0 of ARG3 and write in bits 31:16
(R197). -/
def mapSetForArgs (s : State) (p : Port) : Option (Port × Context × Nat × Nat × Bool) := do
  let q ← portOfNumber (s.arg p 0)
  let c ← contextArg (s.arg p 1)
  let g ← pageArg (s.arg p 2)
  let f ← frameArg s (s.arg p 3 % 65536)
  let w ← flagArg (s.arg p 3 / 65536)
  return (q, c, g, f, w)

/-- The arguments of MAP_CLEAR_FOR: port, context, page (R197). -/
def mapClearForArgs (s : State) (p : Port) : Option (Port × Context × Nat) := do
  let q ← portOfNumber (s.arg p 0)
  let c ← contextArg (s.arg p 1)
  let g ← pageArg (s.arg p 2)
  return (q, c, g)

/-! ### Issuing a command -/

/-- A refusal: the code in RESULT0 and 0 in the other result words (R194). -/
def State.refuse (s : State) (p : Port) (c : ResultCode) : State :=
  s.setResults p ⟨BitVec.ofNat 32 c.value, 0, 0, 0⟩

/-- A command taken: the code in RESULT0 and its values in the other result words (R194). -/
def State.reply (s : State) (p : Port) (c : ResultCode) (r1 r2 r3 : Word) : State :=
  s.setResults p ⟨BitVec.ofNat 32 c.value, r1, r2, r3⟩

/-- The write of COMMAND is taken: the word keeps the value, and the bus write is answered without error
response (R191, R192). -/
def State.takeCode (s : State) (p : Port) (code : Word) : State :=
  s.setUnit p { s.unit p with command := code, answer := some ⟨false, []⟩ }

/-- A command that is not an authority command (R192, R193): checks 2 and 4, then its owner. The
arguments are as the argument words stand; `none` is out of range. -/
def State.issue {α : Type} (s : State) (p : Port) (code : Word) (takenOffline : Bool) (args : Option α)
    (owner : α → State → State) : State :=
  if s.busServed p then
    let t := s.takeCode p code
    if !(s.unit p).online && !takenOffline then t.refuse p .offline
    else
      match args with
      | none => t.refuse p .range
      | some a => owner a t
  else s

/-- The lease is renewed (R143): its deadline is the present time plus the lease parameter, in ms. -/
def State.renewLease (s : State) : State := { s with leaseDeadline := s.now + s.leaseParam * 1000 }

/-- An authority command (R193): checks 2, 3 and 4, then its owner; past check 3 the lease is renewed,
whatever the answer (R143). -/
def State.issueAuthority {α : Type} (s : State) (p : Port) (code : Word) (args : Option α)
    (owner : α → State → State) : State :=
  if s.busServed p then
    let t := s.takeCode p code
    if !(s.unit p).online then t.refuse p .offline
    else if s.token ≠ some p then t.refuse p .denied
    else
      match args with
      | none => (t.refuse p .range).renewLease
      | some a => (owner a t).renewLease
  else s

end Sys2Proof.Machine
end

