-- ==== Sys2Proof/Machine/Recall.lean ====
section
/-! DEFINITION. The recall unit: starting, deferring and removing recalls (chapter 3). -/

namespace Sys2Proof.Machine

/-- The free record with the lowest index (R54). -/
def State.freeRecall (s : State) : Option (Fin 8) :=
  [0, 1, 2, 3, 4, 5, 6, 7].find? (fun i : Fin 8 => (s.recalls.get i).isNone)

/-- The holders other than the head's port: the to-release set of a new recall (R35). -/
def toReleaseOf (e : Entry) : PortSet :=
  match e.queue with
  | [] => noPorts
  | h :: _ => e.holders.set h.port false

/-- A frame needs a recall: it is PRIVATE or SHARED, it has a head, and a port other than the head's holds
it (R58). -/
def needsRecall (e : Entry) : Bool :=
  inUse e.state && !e.queue.isEmpty && !setIsEmpty (toReleaseOf e)

/-- A recall is started in a record (R54): the record is filled for the head waiter, the frame's recall
field names it, and a RECALL record goes to each port of the to-release set (R55). -/
def State.startRecall (s : State) (f : Nat) (i : Fin 8) : State :=
  let e := s.entry f
  match e.queue with
  | [] => s
  | h :: _ =>
    let r : RecallRec :=
      { frame := f, requester := h.port, wanted := h.mode, toRelease := toReleaseOf e,
        deadline := s.now + s.recallTimeout * 10 }
    let s1 := { s with recalls := s.recalls.set i (some r) }
    let s2 := s1.putEntry f { e with recallField := .active i }
    s2.postSet (toReleaseOf e) (.recallNotice f h.port h.mode s.recallTimeout)

/-- The deferred list takes an entry in the order of the sequence numbers (R56). -/
def placeDeferred (d : Deferred) : List Deferred → List Deferred
  | [] => [d]
  | x :: t => if d.seq.toNat < x.seq.toNat then d :: x :: t else x :: placeDeferred d t

/-- A frame's recall is deferred (R56). -/
def State.deferRecall (s : State) (f : Nat) : State :=
  let e := s.entry f
  match e.queue with
  | [] => s
  | h :: _ =>
    let s1 := { s with deferred := placeDeferred ⟨f, h.seq⟩ s.deferred }
    s1.putEntry f { e with recallField := .deferred }

/-- Advancement ensures a recall for a frame (R35): nothing if one is in being, else one is started in a
free record (R54) or deferred (R56). After a revocation R62 says that the new recall takes the record just
freed, R54 that it takes the free record with the lowest index; where a lower one is also free the model
follows R54 (DESIGN CHOICE, log 29). -/
def State.ensureRecall (s : State) (f : Nat) : State :=
  match (s.entry f).recallField with
  | .none =>
    (match s.freeRecall with
     | some i => s.startRecall f i
     | none => s.deferRecall f)
  | .active _ => s
  | .deferred => s

/-- A freed record is offered to the deferred list (R58): the oldest frame that still needs a recall has it
started in the record, and the frames before it that need none are dropped. -/
def State.feedDeferred (i : Fin 8) : List Deferred → State → State
  | [], s => { s with deferred := [] }
  | d :: rest, s =>
    if needsRecall (s.entry d.frame) then
      ({ s with deferred := rest } : State).startRecall d.frame i
    else
      State.feedDeferred i rest
        (s.putEntry d.frame { s.entry d.frame with recallField := .none })

/-- A frame's recall is removed without revocation (R66): an active record is freed and offered to the
deferred list, a deferred entry leaves the list; the recall field becomes none. -/
def State.dropRecall (s : State) (f : Nat) : State :=
  let e := s.entry f
  match e.recallField with
  | .none => s
  | .deferred =>
    ({ s with deferred := s.deferred.filter (fun d => d.frame != f) } : State).putEntry f
      { e with recallField := .none }
  | .active i =>
    let s1 := { s with recalls := s.recalls.set i none }
    let s2 := s1.putEntry f { e with recallField := .none }
    State.feedDeferred i s2.deferred s2

/-- The recall record of a frame, while its recall is active (R52). -/
def State.recallOf (s : State) (f : Nat) : Option (Fin 8 × RecallRec) :=
  match (s.entry f).recallField with
  | .active i => (s.recalls.get i).map (fun r => (i, r))
  | .none => none
  | .deferred => none

/-- A port that has left the holders leaves the to-release set (R59, R67, R68). If the set becomes empty
the record is removed. Also answers whether that was so (the recall ended value of R46). -/
def State.leaveToRelease (s : State) (f : Nat) (p : Port) : State × Bool :=
  match s.recallOf f with
  | none => (s, false)
  | some (i, r) =>
    if r.toRelease.get p then
      let left := r.toRelease.set p false
      if setIsEmpty left then (s.dropRecall f, true)
      else ({ s with recalls := s.recalls.set i (some { r with toRelease := left }) }, false)
    else (s, false)

/-- A port's recall-pending indication (R72). -/
def State.recallPending (s : State) (p : Port) : Bool :=
  s.recalls.toList.any (fun slot => slot.any (fun r => r.toRelease.get p))

/-- A frame's place in the deferred list, 1 being the oldest, 0 if it is not there (R18, R57). -/
def deferredPlace (f : Nat) : List Deferred → Nat
  | [] => 0
  | d :: t => if d.frame = f then 1 else (match deferredPlace f t with | 0 => 0 | n + 1 => n + 2)

end Sys2Proof.Machine
end

