-- ==== Sys2Proof/Machine/Flags.lean ====
section
/-! DEFINITION. What a port shows of its state: the interrupt (R188), PORT_STATUS (R196), and the words that
a read of the control region returns (R191, log 7). -/

namespace Sys2Proof.Machine

/-- A port's PIRQn is asserted (R188). -/
def State.irq (s : State) (p : Port) : Bool :=
  !s.rstAsserted && (s.unit p).intEnable && (!(s.unit p).events.isEmpty || (s.unit p).overrun)

/-- The authority-held field of a port (R140). -/
def State.holdsToken (s : State) (p : Port) : Bool := s.token == some p

/-- PORT_STATUS as a port reads it (R196). -/
def State.portStatus (s : State) (p : Port) : Word :=
  pack [fFlag (s.unit p).online, fFlag (s.holdsToken p), fFlag (s.recallPending p),
    fFlag (s.unit p).overrun, fFlag s.sweepComplete, fContext (s.unit p).context, (2, 0), fPort p]

/-- The words of the head record, or NONE and 0 (R182). -/
def State.headRecord (s : State) (p : Port) : Words4 :=
  match (s.unit p).events with
  | [] => Words4.zero
  | r :: _ => recordWords r

/-- The word at a control-region index as it stands (R191, R195); `State.readControl` answers a read with it. -/
def State.controlRead (s : State) (p : Port) (index : Nat) : Word :=
  match index with
  | 0 => 0x04160001
  | 1 => s.portStatus p
  | 2 => pack [fFlag (s.unit p).intEnable]
  | 4 => (s.unit p).args.w0
  | 5 => (s.unit p).args.w1
  | 6 => (s.unit p).args.w2
  | 7 => (s.unit p).args.w3
  | 8 => (s.unit p).command
  | 12 => (s.unit p).results.w0
  | 13 => (s.unit p).results.w1
  | 14 => (s.unit p).results.w2
  | 15 => (s.unit p).results.w3
  | 16 => (s.headRecord p).w0
  | 17 => (s.headRecord p).w1
  | 18 => (s.headRecord p).w2
  | 19 => (s.headRecord p).w3
  | 20 => BitVec.ofNat 32 (s.unit p).events.length
  | _ => 0

end Sys2Proof.Machine
end

