-- ==== Sys2Proof/Machine/Advance.lean ====
section
/-! DEFINITION. Advancement, the directory's procedure for serving a frame's wait queue (R34 to R38), and what
becomes of a frame that a holder leaves (R41, R43, R44). -/

namespace Sys2Proof.Machine

/-- Advancement grants the head waiter in a mode (R36): its record goes back to the pool, the frame's
recall is removed, its port joins the holders, and a GRANT record is queued to it (R37, log 17). -/
def State.grantHead (s : State) (f : Nat) (h : WaitRec) (forced upgraded : Bool) : State :=
  let e := s.entry f
  let s1 := (s.putEntry f { e with queue := e.queue.tail }).returnRecord h.port
  let s2 := s1.dropRecall f
  let e2 := s2.entry f
  let s3 := s2.putEntry f
    { e2 with holders := e2.holders.set h.port true, state := heldState h.mode }
  s3.post h.port (.grant f h.mode h.tag forced false upgraded)

/-- The steps of R34, each pass taking the first that applies; the bound is the number of passes. -/
def State.advanceFuel (forced : Bool) (f : Nat) : Nat → State → State
  | 0, s => s
  | n + 1, s =>
    let e := s.entry f
    match e.queue with
    | [] => s
    | h :: _ =>
      match e.state, h.mode with
      | .free, .shared => State.advanceFuel forced f n (s.grantHead f h forced false)
      | .shared, .shared => State.advanceFuel forced f n (s.grantHead f h forced false)
      | .free, .priv => State.advanceFuel forced f n (s.grantHead f h forced false)
      | .shared, .priv =>
        if e.holders = onePort h.port then
          State.advanceFuel forced f n (s.grantHead f h forced true)
        else if setIsEmpty (toReleaseOf e) then s
        else s.ensureRecall f
      | .priv, _ => s.ensureRecall f
      | .uninitialized, _ => s
      | .scrubbing, _ => s
      | .quarantined, _ => s
      | .poisoned, _ => s

/-- Advancement of a frame (R34). Each pass but the last removes a wait record, so the length of the queue
bounds the passes. The forced flag marks the run that follows a recall deadline (R38). -/
def State.advance (s : State) (forced : Bool) (f : Nat) : State :=
  State.advanceFuel forced f (s.entry f).queue.length s

/-- What becomes of a frame after a holder has left it, but for a clear (R41, R43, R44, R152, R172): with
no holder left a PRIVATE or SHARED frame becomes FREE and unpinned, and advancement runs; a POISONED
frame stays so. -/
def State.afterLeaving (s : State) (forced : Bool) (f : Nat) : State :=
  let e := s.entry f
  if inUse e.state then
    if setIsEmpty e.holders then
      (s.putEntry f { e with state := .free, pinned := false }).advance forced f
    else s.advance forced f
  else s

/-- A port leaves a frame's holders, and with them a to-release set (R40, R59). Also answers whether an
active recall ended with it. -/
def State.leave (s : State) (f : Nat) (p : Port) : State × Bool :=
  let e := s.entry f
  (s.putEntry f { e with holders := e.holders.set p false }).leaveToRelease f p

/-- A port's waiting claim on a frame is withdrawn (R47, R48, R51): its record goes back to the pool, and
if it was the head the frame's recall is removed and advancement runs. -/
def State.withdraw (s : State) (f : Nat) (p : Port) : State :=
  let e := s.entry f
  let s1 := (s.putEntry f { e with queue := e.queue.filter (fun w => w.port != p) }).returnRecord p
  if isHead e.queue p then (s1.dropRecall f).advance false f else s1

end Sys2Proof.Machine
end

