-- ==== Sys2Proof/Machine/MemoryPort.lean ====
section
/-! DEFINITION. The memory port: the error code (R107), the arbiter (R102, R103), the check at the memory
grant (R92) with its repairs (R93, R94), the performance of a burst (R110 to R113), and poisoning
(R116). -/

namespace Sys2Proof.Machine

/-! ### The error code -/

/-- The bits of a stored word that are in error. -/
def failedBits (e : Bits39) : List (Fin 39) := (List.finRange 39).filter (fun i => e.getLsbD i.val)

/-- The verdict on a pattern of failed bits (R107): none, one, two, or more. -/
def verdictOf (e : Bits39) : Verdict :=
  match failedBits e with
  | [] => .clean
  | [b] => .corrected b
  | [_, _] => .uncorrectable
  | _ => Config.multiBitVerdict e

/-- A pattern of the one bit. -/
def bitPattern (b : Fin 39) : Bits39 := (1 : Bits39) <<< b.val

/-- The data bits of a stored word as read, with these bits failed. -/
def dataAsRead (data : Word) (e : Bits39) : Word := data ^^^ e.setWidth 32

/-- A word is read (R107): bits may have failed since it was last read (log 11). A CLEAN word is delivered
as read; a CORRECTED one with the named bit inverted, and written back valid (R109); an UNCORRECTABLE one
not at all, and is left as found (R115). -/
def readWord (m : Memory) (a : Nat) (upset : Bits39) : Memory × Option Word :=
  let w := readStored m a
  let e := w.failed ^^^ upset
  match verdictOf e with
  | .clean => (writeStored m a ⟨w.data, e⟩, some (dataAsRead w.data e))
  | .corrected b =>
    let d := dataAsRead w.data (e ^^^ bitPattern b)
    (writeStored m a ⟨d, 0⟩, some d)
  | .uncorrectable => (writeStored m a ⟨w.data, e⟩, none)

/-- A word is written whole, with valid check bits (R107). -/
def writeWord (m : Memory) (a : Nat) (d : Word) : Memory := writeStored m a ⟨d, 0⟩

/-! ### Performing a burst -/

/-- What performing a burst gives: the array after it, the words delivered, and the place of the word that
was found UNCORRECTABLE, if one was. -/
structure BurstResult where
  memory    : Memory
  delivered : List Word
  failedAt  : Option Nat
deriving DecidableEq, Repr

/-- The byte address of a word of a request's burst (R90). -/
def wordAddr (r : Request) (place : Nat) : Nat := r.frame * 2048 + (r.offset + place) * 4

/-- The bits of the byte lanes that byte enables name: enable n is bits 8n+7 to 8n (log 15). -/
def laneMask (enables : BitVec 4) : Word :=
  (if enables.getLsbD 0 then 0x000000FF else 0) ||| (if enables.getLsbD 1 then 0x0000FF00 else 0) |||
  (if enables.getLsbD 2 then 0x00FF0000 else 0) ||| (if enables.getLsbD 3 then 0xFF000000 else 0)

/-- The enabled bytes replaced, the others kept (R112). -/
def mergeBytes (enables : BitVec 4) (written kept : Word) : Word :=
  (written &&& laneMask enables) ||| (kept &&& ~~~ laneMask enables)

/-- A read burst, word by word (R110). -/
def readPlaces (r : Request) (upsets : List Bits39) : List Nat → Memory → BurstResult
  | [], m => ⟨m, [], none⟩
  | i :: rest, m =>
    match readWord m (wordAddr r i) (upsets.getD i 0) with
    | (m1, none) => ⟨m1, [], some i⟩
    | (m1, some d) =>
      let b := readPlaces r upsets rest m1
      ⟨b.memory, d :: b.delivered, b.failedAt⟩

/-- A partial write burst, word by word as read-modify-writes (R112). -/
def mergePlaces (r : Request) (upsets : List Bits39) : List Nat → Memory → BurstResult
  | [], m => ⟨m, [], none⟩
  | i :: rest, m =>
    match readWord m (wordAddr r i) (upsets.getD i 0) with
    | (m1, none) => ⟨m1, [], some i⟩
    | (m1, some d) =>
      mergePlaces r upsets rest
        (writeWord m1 (wordAddr r i) (mergeBytes r.enables (r.data.getD i 0) d))

/-- A whole-word write burst (R111): the array is not read. -/
def writePlaces (r : Request) : List Nat → Memory → BurstResult
  | [], m => ⟨m, [], none⟩
  | i :: rest, m => writePlaces r rest (writeWord m (wordAddr r i) (r.data.getD i 0))

/-- The words of a request at these places are performed, in their order (R110 to R113). -/
def performPlaces (r : Request) (upsets : List Bits39) (places : List Nat) (m : Memory) : BurstResult :=
  match r.access with
  | .read => readPlaces r upsets places m
  | .write =>
    if r.enables = 0xF then writePlaces r places m
    else if r.enables = 0 then ⟨m, [], none⟩
    else mergePlaces r upsets places m

/-- A request's whole burst is performed (R104, log 13). -/
def performBurst (r : Request) (upsets : List Bits39) (m : Memory) : BurstResult :=
  performPlaces r upsets (List.range r.burst) m

/-- The byte address of a word of a scrub burst (R101, R128). -/
def scrubAddr (q : ScrubRequest) (place : Nat) : Nat := q.frame * 2048 + q.burst * 32 + place * 4

/-- The words of a scrub burst at these places are written with zero (R106). -/
def scrubPlaces (q : ScrubRequest) (places : List Nat) (m : Memory) : Memory :=
  places.foldl (fun t i => writeWord t (scrubAddr q i) 0) m

/-! ### The check at the memory grant -/

/-- The check of R92 on a window request, against the directory as it stands: the fault, if there is one. -/
def State.grantFault (s : State) (r : Request) : Option FaultCause :=
  let e := s.entry r.frame
  if e.state = .poisoned then some .poisoned
  else if e.holders.get r.port = false then some .stale
  else if r.access = .write ∧ e.state ≠ .priv then some .writeShared
  else none

/-- The repair of the translating entry after a fault at grant (R93, R94): only an entry that still names
the request's frame. -/
def State.repair (s : State) (r : Request) (cause : FaultCause) : State :=
  match s.mapEntry r.port r.context r.page with
  | none => s
  | some m =>
    if m.frame = r.frame then
      match cause with
      | .stale => s.clearMap r.port r.context r.page
      | .writeShared => s.writeMap r.port r.context r.page { m with write := false }
      | _ => s
    else s

/-- A window request that has won the arbiter (R95, R97, R105, R113, log 14): `none` if it ended within its grant,
by a fault or as a write of no byte, with the state after it; otherwise the request is in service. -/
def State.serveWindow (s : State) (r : Request) : State × Bool :=
  match s.grantFault r with
  | some cause =>
    (((s.repair r cause).post r.port (.fault r.addr r.context r.access r.burst cause)).answerBus
      r.port true [], true)
  | none =>
    if r.access = .write ∧ r.enables = 0 then (s.answerBus r.port false [], true)
    else ({ s with memPort := .serving (.window r false) }, false)

/-! ### The arbiter -/

/-- The ring order from a requester on (R102). -/
def ring (q : Requester) : List Requester :=
  match q with
  | .port .P0 => [.port .P0, .port .P1, .port .P2, .port .P3, .scrub]
  | .port .P1 => [.port .P1, .port .P2, .port .P3, .scrub, .port .P0]
  | .port .P2 => [.port .P2, .port .P3, .scrub, .port .P0, .port .P1]
  | .port .P3 => [.port .P3, .scrub, .port .P0, .port .P1, .port .P2]
  | .scrub => [.scrub, .port .P0, .port .P1, .port .P2, .port .P3]

/-- The requester that follows in ring order (R102). -/
def ringNext (q : Requester) : Requester :=
  match q with
  | .port .P0 => .port .P1
  | .port .P1 => .port .P2
  | .port .P2 => .port .P3
  | .port .P3 => .scrub
  | .scrub => .port .P0

/-- The request a requester has waiting (R101). -/
def State.waitingOf (s : State) (q : Requester) : Option Service :=
  match q with
  | .port p => (s.unit p).request.map (fun r => Service.window r false)
  | .scrub => s.scrubRequest.map Service.scrub

/-- The arbiter's choice (R102): the first requester in ring order from the pointer that has a request
waiting. -/
def State.choice (s : State) : Option (Requester × Service) :=
  (ring s.arbiter).findSome? (fun q => (s.waitingOf q).map (fun v => (q, v)))

/-- A requester's request leaves the waiting ones at its grant, and the pointer moves past it (R102). -/
def State.takeWaiting (s : State) (q : Requester) : State :=
  match q with
  | .port p => { s.setUnit p { s.unit p with request := none } with arbiter := ringNext q }
  | .scrub => { s with scrubRequest := none, arbiter := ringNext q }

/-- A refresh begins (R103). -/
def State.beginRefresh (s : State) : State :=
  { s with memPort := .refresh, refreshDue := false, refreshEnd := s.now + 1 }

/-- The arbiter chooses, and again after each request that ends within its grant, until one is in service,
a refresh is due or none waits (R103). At most five requests wait. -/
def State.arbitrateFuel : Nat → State → State
  | 0, s => { s with memPort := .idle }
  | n + 1, s =>
    match s.choice with
    | none => { s with memPort := .idle }
    | some (q, .scrub v) => { s.takeWaiting q with memPort := .serving (.scrub v) }
    | some (q, .window r _) =>
      let (t, ended) := (s.takeWaiting q).serveWindow r
      if ended then
        if t.refreshDue then t.beginRefresh else State.arbitrateFuel n t
      else t

/-- The arbiter chooses among the requests waiting (R103). -/
def State.arbitrate (s : State) : State := s.arbitrateFuel 5

/-- A request has been posted: an IDLE memory port chooses at once (R103). -/
def State.posted (s : State) : State := if s.memPort = .idle then s.arbitrate else s

/-- The request in service has completed: a refresh that is due begins, otherwise the arbiter chooses
(R103). -/
def State.afterService (s : State) : State := if s.refreshDue then s.beginRefresh else s.arbitrate

/-! ### Poisoning -/

/-- Every waiting claim of a frame is refused, from the head (R50). -/
def State.refuseWaiters (f : Nat) : List WaitRec → State → State
  | [], s => s
  | w :: rest, s => State.refuseWaiters f rest ((s.returnRecord w.port).post w.port (.refused f w.tag))

/-- A frame is poisoned by an access of a port (R116, R117): the state, the pin, the recall (R70), a
POISONED record to each holder and to the accessing port, the waiters refused (R50). The accessing port
is told though a FORCE_RELEASE has removed it, as R117 says and the table of R161 does not (DESIGN
CHOICE, log 30). No accessing port is named where its port reset came after the grant (R119); if that port
has attached again and holds the frame anew, it is told as any holder is (R117; DESIGN CHOICE, log 31). -/
def State.poison (s : State) (f : Nat) (accessor : Option Port) : State :=
  let e := s.entry f
  let s1 := (s.putEntry f { e with state := .poisoned, pinned := false }).dropRecall f
  let told :=
    match accessor with
    | some p => e.holders.set p true
    | none => e.holders
  let s2 := State.refuseWaiters f e.queue (s1.postSet told (.poisoned f))
  s2.putEntry f { s2.entry f with queue := [] }

/-- A port's access that has waited for its request in service to complete is posted (R101, log 20). -/
def State.postHeld (s : State) (p : Port) : State :=
  match (s.unit p).held with
  | none => s
  | some r => s.setUnit p { s.unit p with request := some r, held := none }

/-- The request in service ends at a word found UNCORRECTABLE (R115 to R119), and the memory port makes its
next choice. No FAULT record is queued for an access from before a port reset (R119, R175), also where the
port has attached again by then (DESIGN CHOICE, log 32). -/
def State.endUncorrectable (s : State) (r : Request) (discard : Bool) (b : BurstResult) (place : Nat) :
    State :=
  let s0 := { s with memory := b.memory }
  let s1 :=
    if discard then s0
    else s0.post r.port (.fault (r.addr + 4 * place) r.context r.access r.burst .uncorrectable)
  let s2 :=
    if inUse (s1.entry r.frame).state then
      s1.poison r.frame (if discard then none else some r.port)
    else s1
  let s3 := if discard then s2.postHeld r.port else s2.answerBus r.port true b.delivered
  s3.afterService

/-- The request in service has been performed to its end without error (R114). -/
def State.endPerformed (s : State) (r : Request) (discard : Bool) (b : BurstResult) : State :=
  let s0 := { s with memory := b.memory }
  let s1 := if discard then s0.postHeld r.port else s0.answerBus r.port false b.delivered
  s1.afterService

end Sys2Proof.Machine
end

