-- ==== Sys2Proof/Machine/ScrubEngine.lean ====
section
/-! DEFINITION. The scrub engine: appends, bursts, completion and the start-up sweep (chapter 6). -/

namespace Sys2Proof.Machine

/-- The most frames the scrub queue holds (R123). -/
def scrubRoom (s : State) : Bool := s.scrubQueue.length < 16

/-- A burst of the head frame is posted to the memory port (R127). -/
def State.postScrub (s : State) (f b : Nat) : State :=
  ({ s with burst := b, scrubRequest := some ⟨f, b⟩ } : State).posted

/-- A frame is appended to the scrub queue (R124): it becomes SCRUBBING, and if the engine was IDLE its
burst 0 is posted at once. Advancement would end at step 1. -/
def State.appendScrub (s : State) (f : Nat) (origin : Origin) (notify : Option Port) : State :=
  let wasIdle := s.scrubQueue.isEmpty
  let s1 := s.putEntry f { s.entry f with state := .scrubbing, pinned := false }
  let s2 := { s1 with scrubQueue := s1.scrubQueue ++ [⟨f, origin, notify⟩] }
  if wasIdle then s2.postScrub f 0 else s2

/-- The start-up sweep, when the scrub queue is empty: the lowest-numbered UNINITIALIZED frame is appended
while there is one (R133). -/
def State.sweep (s : State) : State :=
  if 0 < s.uninitCount then
    match s.lowestInState .uninitialized with
    | some f => s.appendScrub f .sweep none
    | none => s
  else s

/-- The head frame's scrub completes (R130): it leaves the queue as FREE, SCRUB_DONE goes to the notify
port (R131), advancement runs; then the next head's burst 0 is posted, or the sweep takes a frame
(R127). -/
def State.completeScrub (s : State) : State :=
  match s.scrubQueue with
  | [] => s
  | d :: rest =>
    let s1 := { s with scrubQueue := rest }
    let s2 := s1.putEntry d.frame { s1.entry d.frame with state := .free }
    let s3 :=
      match d.notify with
      | some p => s2.post p (.scrubDone d.frame)
      | none => s2
    let s4 := s3.advance false d.frame
    match s4.scrubQueue with
    | [] => s4.sweep
    | n :: _ => s4.postScrub n.frame 0

/-- The notify of every scrub queue entry that names a port is set to none (R131, R138). -/
def State.dropNotify (s : State) (p : Port) : State :=
  { s with
    scrubQueue := s.scrubQueue.map (fun d => if d.notify = some p then { d with notify := none } else d) }

end Sys2Proof.Machine
end

