-- ==== Sys2Proof/Machine/Claims.lean ====
section
/-! DEFINITION. PROBE_FRAME, CLAIM, CANCEL and RELEASE (chapters 1 and 2). -/

namespace Sys2Proof.Machine

/-! ### PROBE_FRAME -/

/-- The time left to a deadline in whole or part units of 10 us, at least 1 (R18, log 24). -/
def remainingTime (now deadline : Nat) : Nat := max 1 ((deadline - now + 9) / 10)

/-- RESULT3 of PROBE_FRAME (R18): recall status, remaining time, to-release set, deferred position. -/
def State.recallWord (s : State) (f : Nat) : Word :=
  match (s.entry f).recallField with
  | .none => pack [(2, 0), fLarge 0, fSet noPorts, fSmall 0]
  | .deferred => pack [(2, 2), fLarge 0, fSet noPorts, fSmall (deferredPlace f s.deferred)]
  | .active i =>
    match s.recalls.get i with
    | some r => pack [(2, 1), fLarge (remainingTime s.now r.deadline), fSet r.toRelease, fSmall 0]
    | none => pack [(2, 1), fLarge 0, fSet noPorts, fSmall 0]

/-- RESULT2 of PROBE_FRAME (R18): waiter count, and the head's port and mode. -/
def queueWord (q : List WaitRec) : Word :=
  match q with
  | [] => pack [fSmall 0, fFlag false, (2, 0), fHeld none]
  | h :: _ => pack [fSmall q.length, fFlag true, fPort h.port, fHeld (some h.mode)]

/-- PROBE_FRAME's owner (R17, R18): the entry read whole, nothing changed. -/
def ownProbeFrame (p : Port) (f : Nat) (s : State) : State :=
  let e := s.entry f
  s.reply p .ok (pack [fState e.state, fSet e.holders, fFlag e.pinned]) (queueWord e.queue)
    (s.recallWord f)

/-- PROBE_FRAME (R17): taken from an OFFLINE port too. -/
def execProbeFrame (p : Port) (s : State) : Host.Outcome State Fault Refusal :=
  .next (s.issue p 0x03 true (frameArgs s p) (ownProbeFrame p))

/-! ### CLAIM -/

/-- The mode in which a port holds a frame, by its entry: NONE if it does not. -/
def heldMode (e : Entry) (p : Port) : Option Mode :=
  if e.holders.get p then
    match e.state with
    | .priv => some .priv
    | .shared => some .shared
    | _ => none
  else none

/-- What the frame's state, holders, queue and pin make of a claim that passes the UNAVAILABLE and
DUPLICATE checks (R23 step 3, R26 to R32). -/
inductive ClaimCase where
  | take (outcome : ClaimOutcome)
  | refusePinned
  | wait
deriving DecidableEq, Repr

/-- The case of a claim (R26 to R32). -/
def claimCase (e : Entry) (p : Port) (m : Mode) : ClaimCase :=
  match e.state with
  | .free => .take .granted
  | .uninitialized => .wait
  | .scrubbing => .wait
  | .quarantined => .wait
  | .poisoned => .wait
  | .priv =>
    if e.holders.get p then (match m with | .priv => .take .held | .shared => .take .downgraded)
    else if e.pinned then .refusePinned else .wait
  | .shared =>
    match m with
    | .shared =>
      if e.holders.get p then .take .held
      else if e.queue.isEmpty then .take .joined else .wait
    | .priv =>
      if e.holders = onePort p ∧ e.queue = [] then .take .upgraded
      else if e.pinned then .refusePinned else .wait

/-- The change that a claim answered OK makes to the entry (R26, R28, R30, R31). -/
def takenEntry (e : Entry) (p : Port) (m : Mode) (o : ClaimOutcome) : Entry :=
  match o with
  | .granted => { e with holders := onePort p, state := heldState m }
  | .joined => { e with holders := e.holders.set p true }
  | .upgraded => { e with state := .priv }
  | .downgraded => { e with state := .shared }
  | .held => e
  | .queued => e

/-- RESULT1 to RESULT3 of a claim that is taken (R24). -/
def State.claimReply (s : State) (p : Port) (c : ResultCode) (f : Nat) (o : ClaimOutcome)
    (tag : BitVec 8) (position : Nat) (promoted : Bool) : State :=
  s.reply p c
    (pack [fFrame f, fHeld (heldMode (s.entry f) p), (4, outcomeCode o)])
    (pack [fSmall tag.toNat, fSmall position, fFlag promoted])
    (pack [fSmall (s.unit p).waiting, fSmall s.poolFree])

/-- A claim answered OK (R26, R28, R30, R31). Advancement runs after a downgrade (R28); after the other
outcomes the queue is empty, or nothing changed. -/
def State.takeClaim (s : State) (p : Port) (f : Nat) (m : Mode) (tag : BitVec 8) (o : ClaimOutcome) :
    State :=
  let s1 := s.putEntry f (takenEntry (s.entry f) p m o)
  let s2 := if o = .downgraded then s1.advance false f else s1
  s2.claimReply p .ok f o tag 0 false

/-- A claim left waiting (R25): a record is taken and joins the tail of the queue; an UNINITIALIZED frame
is promoted if the scrub queue has room (R27, R134); advancement runs if the queue was empty. -/
def State.queueClaim (s : State) (p : Port) (f : Nat) (m : Mode) (tag : BitVec 8) : State :=
  let e := s.entry f
  let s1 := s.takeRecord p
  let s2 := s1.putEntry f { e with queue := e.queue ++ [⟨p, m, tag, s.arrival⟩] }
  let promoted := e.state == .uninitialized && scrubRoom s
  let s3 := if promoted then s2.appendScrub f .promotion none else s2
  let s4 := if e.queue.isEmpty then s3.advance false f else s3
  s4.claimReply p .pending f .queued tag (e.queue.length + 1) promoted

/-- CLAIM's owner: the checks of R23 in order. -/
def ownClaim (p : Port) (a : Nat × Mode × BitVec 8) (s : State) : State :=
  let (f, m, tag) := a
  let e := s.entry f
  if e.state = .poisoned then s.refuse p .unavailable
  else if waitsIn e.queue p then s.refuse p .duplicate
  else
    match claimCase e p m with
    | .take o => s.takeClaim p f m tag o
    | .refusePinned => s.refuse p .pinned
    | .wait =>
      if s.poolFree = 0 then s.refuse p .busy
      else if 8 ≤ (s.unit p).waiting then s.refuse p .limit
      else s.queueClaim p f m tag

/-- CLAIM (R23). -/
def execClaim (p : Port) (s : State) : Host.Outcome State Fault Refusal :=
  .next (s.issue p 0x10 false (claimArgs s p) (ownClaim p))

/-! ### CANCEL -/

/-- CANCEL's owner (R47): STATE if the port has no waiting claim on the frame; otherwise the claim is
withdrawn. -/
def ownCancel (p : Port) (f : Nat) (s : State) : State :=
  let e := s.entry f
  match e.queue.find? (fun w => w.port == p) with
  | none => s.refuse p .state
  | some w =>
    let t := s.withdraw f p
    t.reply p .ok (pack [fFrame f, fMode w.mode, fFlag (isHead e.queue p)])
      (pack [fSmall w.tag.toNat]) (pack [fSmall (t.unit p).waiting])

/-- CANCEL (R47). -/
def execCancel (p : Port) (s : State) : Host.Outcome State Fault Refusal :=
  .next (s.issue p 0x11 false (frameArgs s p) (ownCancel p))

/-! ### RELEASE -/

/-- A release with clear by the last holder of a PRIVATE or SHARED frame (R39, R42). -/
def clearsFrame (e : Entry) (p : Port) (clear : Bool) : Bool :=
  clear && inUse e.state && e.holders == onePort p

/-- RELEASE's owner (R39 to R46). -/
def ownRelease (p : Port) (a : Nat × Bool) (s : State) : State :=
  let (f, clear) := a
  let e := s.entry f
  if e.holders.get p = false then s.refuse p .notHeld
  else
    let clears := clearsFrame e p clear
    if clears && !scrubRoom s then s.refuse p .busy
    else
      let (s1, ended) := s.leave f p
      let s2 :=
        if clears then (s1.dropRecall f).appendScrub f .release none
        else s1.afterLeaving false f
      s2.reply p .ok
        (pack [fFrame f, fState (s2.entry f).state, fFlag clears])
        (pack [fSet (s2.entry f).holders]) (pack [fFlag ended])

/-- RELEASE (R39). -/
def execRelease (p : Port) (s : State) : Host.Outcome State Fault Refusal :=
  .next (s.issue p 0x12 false (releaseArgs s p) (ownRelease p))

end Sys2Proof.Machine
end

