-- ==== Sys2Proof/Machine/Maps.lean ====
section
/-! DEFINITION. The map commands and PROBE_PAGE (chapter 4). -/

namespace Sys2Proof.Machine

/-- SELECT_CONTEXT's owner (R77). -/
def ownSelectContext (p : Port) (c : Context) (s : State) : State :=
  (s.setUnit p { s.unit p with context := c }).reply p .ok
    (pack [fContext (s.unit p).context, fContext c]) 0 0

/-- SELECT_CONTEXT (R77). -/
def execSelectContext (p : Port) (s : State) : Host.Outcome State Fault Refusal :=
  .next (s.issue p 0x20 false (contextArgs s p) (ownSelectContext p))

/-- The checks of MAP_SET against a port's holding, in order (R78): the refusal, if there is one. -/
def mapSetRefusal (e : Entry) (q : Port) (write : Bool) : Option ResultCode :=
  if e.state = .poisoned then some .unavailable
  else if e.holders.get q = false then some .notHeld
  else if write = true ∧ e.state ≠ .priv then some .state
  else none

/-- An entry of port q's map is set at the command of port p (R78, R79, R85). -/
def State.setMapFor (s : State) (p q : Port) (c : Context) (page f : Nat) (write : Bool) : State :=
  match mapSetRefusal (s.entry f) q write with
  | some code => s.refuse p code
  | none =>
    (s.writeMap q c page ⟨f, write⟩).reply p .ok
      (pack [fContext c, fPage page, fFrame f, fFlag write])
      (pack (entryFields (s.mapEntry q c page)))
      (pack [fHeld (heldMode (s.entry f) q)])

/-- An entry of port q's map is made not valid at the command of port p (R81, R85). -/
def State.clearMapFor (s : State) (p q : Port) (c : Context) (page : Nat) : State :=
  (s.clearMap q c page).reply p .ok (pack [fContext c, fPage page])
    (pack (entryFields (s.mapEntry q c page))) 0

/-- MAP_SET's owner (R78, R79). -/
def ownMapSet (p : Port) (a : Context × Nat × Nat × Bool) (s : State) : State :=
  let (c, page, f, write) := a
  s.setMapFor p p c page f write

/-- MAP_SET (R78). -/
def execMapSet (p : Port) (s : State) : Host.Outcome State Fault Refusal :=
  .next (s.issue p 0x21 false (mapSetArgs s p) (ownMapSet p))

/-- MAP_CLEAR's owner (R81). -/
def ownMapClear (p : Port) (a : Context × Nat) (s : State) : State :=
  let (c, page) := a
  s.clearMapFor p p c page

/-- MAP_CLEAR (R81). -/
def execMapClear (p : Port) (s : State) : Host.Outcome State Fault Refusal :=
  .next (s.issue p 0x22 false (pageArgs s p) (ownMapClear p))

/-- MAP_CLEAR_ALL's owner (R82). -/
def ownMapClearAll (p : Port) (c : Context) (s : State) : State :=
  (s.setUnit p ((s.unit p).setMap c [])).reply p .ok (pack [fContext c])
    (pack [fLarge ((s.unit p).mapOf c).length]) 0

/-- MAP_CLEAR_ALL (R82). -/
def execMapClearAll (p : Port) (s : State) : Host.Outcome State Fault Refusal :=
  .next (s.issue p 0x23 false (contextArgs s p) (ownMapClearAll p))

/-- What a one-word access through an entry would meet now, at arrival and at grant (R83): the fault, if
there is one. -/
def State.probeAccess (s : State) (p : Port) (m : Option MapEntry) (access : Access) :
    Option FaultCause :=
  match m with
  | none => some .unmapped
  | some m =>
    let e := s.entry m.frame
    if access = .write ∧ m.write = false then some .writeProtect
    else if e.state = .poisoned then some .poisoned
    else if e.holders.get p = false then some .stale
    else if access = .write ∧ e.state ≠ .priv then some .writeShared
    else none

/-- The overall verdict of PROBE_PAGE (R83), encoded by R198. -/
def verdictCode (read write : Option FaultCause) : Nat :=
  if read ≠ none then 0 else if write ≠ none then 1 else 2

/-- RESULT3 of PROBE_PAGE (R84): the frame's state and the held mode, 0 for an entry that is not valid. For a
POISONED frame that the port still holds R84 gives no mode, and the field reads 0 by R194 (log 19). -/
def State.probePageWord (s : State) (p : Port) (m : Option MapEntry) : Word :=
  match m with
  | none => 0
  | some m => pack [fState (s.entry m.frame).state, fHeld (heldMode (s.entry m.frame) p)]

/-- PROBE_PAGE's owner (R83, R84): nothing changes but the result words. -/
def ownProbePage (p : Port) (a : Context × Nat) (s : State) : State :=
  let (c, page) := a
  let m := s.mapEntry p c page
  let read := s.probeAccess p m .read
  let write := s.probeAccess p m .write
  s.reply p .ok (pack (entryFields m))
    (pack [(2, verdictCode read write), (4, accessOutcomeCode read), (4, accessOutcomeCode write)])
    (s.probePageWord p m)

/-- PROBE_PAGE (R83). -/
def execProbePage (p : Port) (s : State) : Host.Outcome State Fault Refusal :=
  .next (s.issue p 0x24 false (pageArgs s p) (ownProbePage p))

end Sys2Proof.Machine
end

