-- ==== Sys2Proof/Machine/Authority.lean ====
section
/-! DEFINITION. The directory authority: the token, the lease, the parameters and the privileged commands
(chapter 7). -/

namespace Sys2Proof.Machine

/-- A frame number with its present indication (R142, R199). -/
def foundFields (f : Option Nat) : List (Nat × Nat) :=
  match f with
  | none => [fFrame 0, fFlag false]
  | some f => [fFrame f, fFlag true]

/-- The acquisition summary (R142); the outcome is 1 ACQUIRED or 2 RENEWED (R198). -/
def State.acquired (s : State) (p : Port) (outcome : Nat) : State :=
  s.reply p .ok (pack [(4, outcome), fLarge s.leaseParam])
    (pack [fLarge s.quarantinedCount, fLarge s.poisonedCount])
    (pack (fFlag s.sweepComplete ::
      (foundFields (s.lowestInState .quarantined) ++ foundFields (s.lowestInState .poisoned))))

/-- ACQUIRE_AUTHORITY's owner (R141). -/
def ownAcquireAuthority (p : Port) (_ : Unit) (s : State) : State :=
  match s.token with
  | none => (({ s with token := some p } : State).renewLease).acquired p 1
  | some q => if q = p then s.renewLease.acquired p 2 else s.refuse p .busy

/-- ACQUIRE_AUTHORITY (R141). -/
def execAcquireAuthority (p : Port) (s : State) : Host.Outcome State Fault Refusal :=
  .next (s.issue p 0x30 false (some ()) (ownAcquireAuthority p))

/-- RENEW_AUTHORITY's owner (R143): the renewal itself is the one every authority command makes. -/
def ownRenewAuthority (p : Port) (_ : Unit) (s : State) : State :=
  s.reply p .ok (pack [fLarge s.leaseParam]) 0 0

/-- RENEW_AUTHORITY (R143). -/
def execRenewAuthority (p : Port) (s : State) : Host.Outcome State Fault Refusal :=
  .next (s.issueAuthority p 0x31 (some ()) (ownRenewAuthority p))

/-- RELEASE_AUTHORITY (R145): an authority command that does not renew; it frees the token. -/
def execReleaseAuthority (p : Port) (s : State) : Host.Outcome State Fault Refusal :=
  .next (s.issue p 0x32 false (some ())
    (fun _ t =>
      if t.token = some p then ({ t with token := none } : State).reply p .ok 0 0 0
      else t.refuse p .denied))

/-- ASSIGN's owner (R149). -/
def ownAssign (p : Port) (a : Nat × Port × Mode) (s : State) : State :=
  let (f, q, m) := a
  if (s.unit q).online = false then s.refuse p .offline
  else if (s.entry f).state ≠ .free then s.refuse p .state
  else
    let s1 := s.putEntry f { s.entry f with holders := onePort q, state := heldState m }
    let s2 := s1.post q (.grant f m 0 false true false)
    (s2.advance false f).reply p .ok (pack [fFrame f, fPort q, fMode m]) 0 0

/-- ASSIGN (R149). -/
def execAssign (p : Port) (s : State) : Host.Outcome State Fault Refusal :=
  .next (s.issueAuthority p 0x40 (assignArgs s p) (ownAssign p))

/-- FORCE_RELEASE's owner (R151, R152). -/
def ownForceRelease (p : Port) (a : Nat × Port) (s : State) : State :=
  let (f, q) := a
  if (s.entry f).holders.get q = false then s.refuse p .notHeld
  else
    let (s1, ended) := (s.post q (.revoked f .authority)).leave f q
    let s2 := s1.afterLeaving false f
    s2.reply p .ok (pack [fFrame f, fPort q, fState (s2.entry f).state])
      (pack [fSet (s2.entry f).holders]) (pack [fFlag ended])

/-- FORCE_RELEASE (R151). -/
def execForceRelease (p : Port) (s : State) : Host.Outcome State Fault Refusal :=
  .next (s.issueAuthority p 0x41 (forceArgs s p) (ownForceRelease p))

/-- PIN's owner (R153). -/
def ownPin (p : Port) (f : Nat) (s : State) : State :=
  let e := s.entry f
  if inUse e.state = false then s.refuse p .state
  else if e.queue ≠ [] then s.refuse p .busy
  else
    (s.putEntry f { e with pinned := true }).reply p .ok
      (pack [fFrame f, fState e.state, fFlag e.pinned]) (pack [fSet e.holders]) 0

/-- PIN (R153). -/
def execPin (p : Port) (s : State) : Host.Outcome State Fault Refusal :=
  .next (s.issueAuthority p 0x42 (frameArgs s p) (ownPin p))

/-- UNPIN's owner (R154). -/
def ownUnpin (p : Port) (f : Nat) (s : State) : State :=
  let e := s.entry f
  (s.putEntry f { e with pinned := false }).reply p .ok
    (pack [fFrame f, fState e.state, fFlag e.pinned]) 0 0

/-- UNPIN (R154). -/
def execUnpin (p : Port) (s : State) : Host.Outcome State Fault Refusal :=
  .next (s.issueAuthority p 0x43 (frameArgs s p) (ownUnpin p))

/-- The frame states from which SCRUB takes a frame (R155). -/
def scrubbable (st : FrameState) : Bool := st == .free || st == .quarantined || st == .poisoned

/-- SCRUB's owner (R155, R156): the holders of a POISONED frame are revoked, and the frame joins the scrub
queue with notify to the issuer. -/
def ownScrub (p : Port) (f : Nat) (s : State) : State :=
  let e := s.entry f
  if scrubbable e.state = false then s.refuse p .state
  else if scrubRoom s = false then s.refuse p .busy
  else
    let s1 := s.putEntry f { e with holders := noPorts }
    let s2 := s1.postSet e.holders (.revoked f .scrub)
    let s3 := s2.appendScrub f .command (some p)
    s3.reply p .ok (pack [fFrame f, fState e.state])
      (pack [fSmall (s.scrubQueue.length + 1), fSet e.holders]) (pack [fSmall e.queue.length])

/-- SCRUB (R155). -/
def execScrub (p : Port) (s : State) : Host.Outcome State Fault Refusal :=
  .next (s.issueAuthority p 0x44 (frameArgs s p) (ownScrub p))

/-- UNQUARANTINE's owner (R158). -/
def ownUnquarantine (p : Port) (f : Nat) (s : State) : State :=
  let e := s.entry f
  if e.state ≠ .quarantined then s.refuse p .state
  else
    let t := (s.putEntry f { e with state := .free }).advance false f
    t.reply p .ok (pack [fFrame f, fState (t.entry f).state]) (pack [fSet (t.entry f).holders])
      (pack [fSmall (t.entry f).queue.length])

/-- UNQUARANTINE (R158). -/
def execUnquarantine (p : Port) (s : State) : Host.Outcome State Fault Refusal :=
  .next (s.issueAuthority p 0x45 (frameArgs s p) (ownUnquarantine p))

/-- MAP_SET_FOR's owner (R159): OFFLINE if the named port is; otherwise as MAP_SET for it. -/
def ownMapSetFor (p : Port) (a : Port × Context × Nat × Nat × Bool) (s : State) : State :=
  let (q, c, page, f, write) := a
  if (s.unit q).online = false then s.refuse p .offline else s.setMapFor p q c page f write

/-- MAP_SET_FOR (R159). -/
def execMapSetFor (p : Port) (s : State) : Host.Outcome State Fault Refusal :=
  .next (s.issueAuthority p 0x46 (mapSetForArgs s p) (ownMapSetFor p))

/-- MAP_CLEAR_FOR's owner (R159). -/
def ownMapClearFor (p : Port) (a : Port × Context × Nat) (s : State) : State :=
  let (q, c, page) := a
  if (s.unit q).online = false then s.refuse p .offline else s.clearMapFor p q c page

/-- MAP_CLEAR_FOR (R159). -/
def execMapClearFor (p : Port) (s : State) : Host.Outcome State Fault Refusal :=
  .next (s.issueAuthority p 0x47 (mapClearForArgs s p) (ownMapClearFor p))

/-- SET_PARAMETER's owner (R148): the id and the value are its own to check. -/
def ownSetParameter (p : Port) (a : Nat × Nat) (s : State) : State :=
  let (id, value) := a
  if 1 < id ∨ value = 0 ∨ 65535 < value then s.refuse p .range
  else if id = 0 then
    ({ s with recallTimeout := value } : State).reply p .ok (pack [fSmall id])
      (pack [fLarge s.recallTimeout]) (pack [fLarge value])
  else
    ({ s with leaseParam := value } : State).reply p .ok (pack [fSmall id])
      (pack [fLarge s.leaseParam]) (pack [fLarge value])

/-- SET_PARAMETER (R148). -/
def execSetParameter (p : Port) (s : State) : Host.Outcome State Fault Refusal :=
  .next (s.issueAuthority p 0x48 (some (s.arg p 0, s.arg p 1)) (ownSetParameter p))

end Sys2Proof.Machine
end

