-- ==== Sys2Proof/Machine/Departure.lean ====
section
/-! DEFINITION. What a DETACH and a port reset share and what a port reset adds (R168, R170 to R176). -/

namespace Sys2Proof.Machine

/-- The frames on which a port waits. -/
def State.framesWaited (s : State) (p : Port) : List Nat :=
  (s.dir.filter (fun c => waitsIn c.2.queue p)).map Prod.fst

/-- The frames a port holds. -/
def State.framesHeld (s : State) (p : Port) : List Nat :=
  (s.dir.filter (fun c => c.2.holders.get p)).map Prod.fst

/-- Every waiting claim of a port is withdrawn, frame by frame in a free order (R51, R168, R171, log 4). -/
def State.withdrawAll (s : State) (p : Port) : State :=
  (s.freeOrder (s.framesWaited p)).foldl (fun t f => t.withdraw f p) s.nextDraw

/-- A port's token, if it holds it, is freed without a record (R145, R168). -/
def State.freeTokenOf (s : State) (p : Port) : State :=
  if s.token = some p then { s with token := none } else s

/-- A port's maps are cleared and context 0 made active (R75). -/
def State.clearMaps (s : State) (p : Port) : State :=
  s.setUnit p { s.unit p with map0 := [], map1 := [], context := .c0 }

/-- The ports that a quarantine is told to: the holder of the token, unless it is the port being reset, and
each waiter (R160). -/
def quarantineTold (s : State) (p : Port) (q : List WaitRec) : PortSet :=
  let waiters := q.foldl (fun ps w => ps.set w.port true) noPorts
  let told :=
    match s.token with
    | some h => waiters.set h true
    | none => waiters
  told.set p false

/-- A PRIVATE holding of a reset port is quarantined (R173). -/
def State.quarantine (s : State) (f : Nat) (p : Port) : State :=
  let e := s.entry f
  let s1 := s.putEntry f
    { e with holders := e.holders.set p false, state := .quarantined, pinned := false }
  let s2 := s1.dropRecall f
  s2.postSet (quarantineTold s p e.queue) (.quarantined f p)

/-- A holding of a reset port is removed (R172 to R174): a PRIVATE frame is quarantined, a SHARED one given
up as by a RELEASE without clear, a POISONED one loses the holder. -/
def State.giveUp (s : State) (f : Nat) (p : Port) : State :=
  if (s.entry f).state = .priv then s.quarantine f p
  else (s.leave f p).1.afterLeaving false f

/-- Every holding of a port is removed, frame by frame in a free order (R170, log 4). -/
def State.giveUpAll (s : State) (p : Port) : State :=
  (s.freeOrder (s.framesHeld p)).foldl (fun t f => t.giveUp f p) s.nextDraw

/-- A request in service of a port goes on with its answer discarded (R114, R175, log 20). -/
def State.discardAnswer (s : State) (p : Port) : State :=
  match s.memPort with
  | .serving (.window r discard) =>
    if r.port = p then { s with memPort := .serving (.window r true) }
    else { s with memPort := .serving (.window r discard) }
  | _ => s

/-- The values a port unit has after a port reset (R176): its waiting request is withdrawn (R91), its PRSTn
is asserted. -/
def State.resetUnit (s : State) (p : Port) : State := s.setUnit p (PortUnit.reset true)

/-- The departure of a port reset (R170): first the claims, then the holdings, then the rest. -/
def State.depart (s : State) (p : Port) : State :=
  ((((((s.withdrawAll p).giveUpAll p).freeTokenOf p).dropNotify p).discardAnswer p).resetUnit p)

/-- The departure of a DETACH, for a port that holds no frame (R168). -/
def State.detachPort (s : State) (p : Port) : State :=
  let t := (((s.withdrawAll p).freeTokenOf p).dropNotify p).clearMaps p
  t.setUnit p { t.unit p with waiting := 0, events := [], overrun := false, online := false }

end Sys2Proof.Machine
end

