-- ==== Sys2Proof/Machine/Lifecycle.lean ====
section
/-! DEFINITION. ATTACH and DETACH (chapter 8). -/

namespace Sys2Proof.Machine

/-- ATTACH's owner (R166): STATE from an ONLINE port; otherwise the port becomes ONLINE. -/
def ownAttach (p : Port) (_ : Unit) (s : State) : State :=
  if (s.unit p).online then s.refuse p .state
  else
    (s.setUnit p { s.unit p with online := true }).reply p .ok
      (pack [fPort p]) (pack [fLarge s.frames]) (pack [fFlag s.sweepComplete])

/-- ATTACH (R166). -/
def execAttach (p : Port) (s : State) : Host.Outcome State Fault Refusal :=
  .next (s.issue p 0x01 true (some ()) (ownAttach p))

/-- DETACH's owner (R167): HOLDING, with the holding count, while the port holds frames; otherwise the port
departs (R168) and the result says what was disposed of. -/
def ownDetach (p : Port) (_ : Unit) (s : State) : State :=
  let u := s.unit p
  if 0 < u.holding then s.reply p .holding (pack [fLarge u.holding]) 0 0
  else
    (s.detachPort p).reply p .ok
      (pack [fSmall u.waiting, fFlag (s.holdsToken p)])
      (pack [fLarge (u.map0.length + u.map1.length)])
      (pack [fSmall u.events.length, fFlag u.overrun])

/-- DETACH (R167). -/
def execDetach (p : Port) (s : State) : Host.Outcome State Fault Refusal :=
  .next (s.issue p 0x02 false (some ()) (ownDetach p))

end Sys2Proof.Machine
end

