-- ==== Sys2Proof/Machine/Registers.lean ====
section
/-! DEFINITION. Writes to the control region other than the commands: BAD_COMMAND, PORT_STATUS_WRITE,
INT_ENABLE_WRITE, EVENT_POP, REGISTER_WRITE, CONTROL_ACCESS_ERROR (chapters 9 and 10). -/

namespace Sys2Proof.Machine

/-- A write of a control word is taken if the port's bus is served (R164), and answered without error
response (R190). -/
def State.writeControl (s : State) (p : Port) (effect : PortUnit → PortUnit) : State :=
  if s.busServed p then s.setUnit p { effect (s.unit p) with answer := some ⟨false, []⟩ } else s

/-- BAD_COMMAND (R193 check 1): the value is stored, and the answer is BAD_COMMAND. A code that names a
command is another row's (log 5). -/
def execBadCommand (p : Port) (code : Word) (s : State) : Host.Outcome State Fault Refusal :=
  if codeIsBad p code && s.busServed p then .next ((s.takeCode p code).refuse p .badCommand)
  else .next s

/-- PORT_STATUS_WRITE (R185): a one in the overrun field, bit 3, clears OVERRUN. -/
def execPortStatusWrite (p : Port) (value : Word) (s : State) : Host.Outcome State Fault Refusal :=
  .next (s.writeControl p (fun u => if value.getLsbD 3 then { u with overrun := false } else u))

/-- INT_ENABLE_WRITE (R187): the enable takes bit 0. -/
def execIntEnableWrite (p : Port) (value : Word) (s : State) : Host.Outcome State Fault Refusal :=
  .next (s.writeControl p (fun u => { u with intEnable := value.getLsbD 0 }))

/-- EVENT_POP (R183): the head record is removed, whatever the value. -/
def execEventPop (p : Port) (_value : Word) (s : State) : Host.Outcome State Fault Refusal :=
  .next (s.writeControl p (fun u => { u with events := u.events.tail }))

/-- The argument words after a write of the control word at this index (R191, R195). -/
def writeArgs (a : Words4) (index : Nat) (value : Word) : Words4 :=
  match index with
  | 4 => { a with w0 := value }
  | 5 => { a with w1 := value }
  | 6 => { a with w2 := value }
  | 7 => { a with w3 := value }
  | _ => a

/-- REGISTER_WRITE (R191): ARG0 to ARG3 keep the value; a read-only or unnamed word ignores it. An index
of a word with a behaviour of its own is another row's (log 5). -/
def execRegisterWrite (p : Port) (index : Nat) (value : Word) (s : State) :
    Host.Outcome State Fault Refusal :=
  if plainRegister index then
    .next (s.writeControl p (fun u => { u with args := writeArgs u.args index value }))
  else .next s

/-- CONTROL_ACCESS_ERROR (R190): an error response at once, and no effect. -/
def execControlAccessError (p : Port) (access : Access) (addr : BitVec 21) (burst : Nat) (s : State) :
    Host.Outcome State Fault Refusal :=
  if (Instr.controlAccessError p access addr burst).wellFormed && s.busServed p then
    .next (s.answerBus p true [])
  else .next s

end Sys2Proof.Machine
end

