-- ==== Sys2Proof/Machine/Resets.lean ====
section
/-! DEFINITION. Part reset and port reset: PART_RESET, RSTN_RELEASE, PORT_RESET, PRSTN_RELEASE. -/

namespace Sys2Proof.Machine

/-- The array after part reset has abandoned the request in service: some of its words may have been
performed and others not (R121, log 16). -/
def State.abandonedMemory (s : State) : Memory :=
  match s.memPort with
  | .serving (.window r _) =>
    (performPlaces r [] ((List.range r.burst).filter (Config.abandonedWord s.draws)) s.memory).memory
  | .serving (.scrub q) =>
    scrubPlaces q ((List.range 8).filter (Config.abandonedWord s.draws)) s.memory
  | _ => s.memory

/-- PART_RESET (R4, R121, R137): every block takes its reset values; the array is not cleared. -/
def execPartReset (s : State) : Host.Outcome State Fault Refusal :=
  .next (State.afterPartReset s.frames s.now s.abandonedMemory
    ⟨s.ports.p0.prst, s.ports.p1.prst, s.ports.p2.prst, s.ports.p3.prst⟩ (s.draws + 1) s.pending)

/-- The frames present for a strap value (R1). -/
def framesOfStrap (strap : Fin 4) : Nat :=
  match strap with
  | 0 => 1024
  | 1 => 2048
  | 2 => 4096
  | 3 => 8192

/-- RSTN_RELEASE (R1, R133): the strap fixes F, the UNINITIALIZED count is F, and the sweep appends frame 0
and posts its burst 0. No effect while RSTn is not asserted (log 5). -/
def execRstnRelease (strap : Fin 4) (s : State) : Host.Outcome State Fault Refusal :=
  if s.rstAsserted then
    .next (({ s with
      rstAsserted := false, frames := framesOfStrap strap, uninitCount := framesOfStrap strap,
      refreshAt := s.now + 7 } : State).appendScrub 0 .sweep none)
  else .next s

/-- PORT_RESET (R170): the port departs. While RSTn is asserted the part reset covers it, and only the pin
changes (log 23). -/
def execPortReset (p : Port) (s : State) : Host.Outcome State Fault Refusal :=
  if s.rstAsserted then .next (s.setUnit p { s.unit p with prst := true })
  else .next (s.depart p)

/-- PRSTN_RELEASE (R164): nothing changes but the pin; the bus is served from then on. -/
def execPrstnRelease (p : Port) (s : State) : Host.Outcome State Fault Refusal :=
  .next (s.setUnit p { s.unit p with prst := false })

end Sys2Proof.Machine
end

