-- ==== Sys2Proof/Machine/Timers.lean ====
section
/-! DEFINITION. Deadlines and time: RECALL_DEADLINE, AUTHORITY_LEASE_EXPIRY, and the tick of the 1 us time
base that step makes when no command waits (log 2). -/

namespace Sys2Proof.Machine

/-- The holders of a frame without the members of a set. -/
def withoutSet (a b : PortSet) : PortSet :=
  ⟨a.p0 && !b.p0, a.p1 && !b.p1, a.p2 && !b.p2, a.p3 && !b.p3⟩

/-- A recall record's deadline expires (R61): its to-release ports leave the holders with a REVOKED record
each, the record is removed and offered to the deferred list, and advancement runs with its grants
forced. -/
def State.expireRecall (s : State) (r : RecallRec) : State :=
  let e := s.entry r.frame
  let s1 := s.putEntry r.frame { e with holders := withoutSet e.holders r.toRelease }
  let s2 := s1.postSet r.toRelease (.revoked r.frame .timeout)
  (s2.dropRecall r.frame).afterLeaving true r.frame

/-- RECALL_DEADLINE (R61): no effect where the frame has no active recall (R64), or its deadline has not
been reached by the time base (R60, log 5). -/
def execRecallDeadline (frame : Nat) (s : State) : Host.Outcome State Fault Refusal :=
  match s.recallOf frame with
  | none => .next s
  | some (_, r) => if r.frame = frame ∧ r.deadline ≤ s.now then .next (s.expireRecall r) else .next s

/-- AUTHORITY_LEASE_EXPIRY (R144): the token is freed, and AUTHORITY_LAPSED queued to its holder. No effect
where the token is free, or before the time base reaches the lease deadline (log 5). -/
def execAuthorityLeaseExpiry (s : State) : Host.Outcome State Fault Refusal :=
  match s.token with
  | none => .next s
  | some p =>
    if s.leaseDeadline ≤ s.now then
      .next (({ s with token := none } : State).post p .authorityLapsed)
    else .next s

/-! ### The tick -/

/-- The frames whose recall deadline has been reached. -/
def State.dueFrames (s : State) : List Nat :=
  s.recalls.toList.filterMap
    (fun slot => slot.bind (fun r => if r.deadline ≤ s.now then some r.frame else none))

/-- The timer events that are due, as numbers: 0 the lease, 1 the refresh timer, 2 the refresh, n + 3 the
recall deadline of frame n. -/
def State.dueCodes (s : State) : List Nat :=
  (if s.token.isSome && s.leaseDeadline ≤ s.now then [0] else []) ++
  (if s.refreshAt ≤ s.now then [1] else []) ++
  (if s.memPort = .refresh ∧ s.refreshEnd ≤ s.now then [2] else []) ++
  s.dueFrames.map (fun f => f + 3)

/-- The command of a timer event. -/
def dueCommand (code : Nat) : Instr :=
  match code with
  | 0 => .authorityLeaseExpiry
  | 1 => .refreshTimerExpiry
  | 2 => .refreshComplete
  | n + 3 => .recallDeadline n

/-- One microsecond passes while no command waits (log 2): the time base is raised by one, and the timer
events that it makes due join the queue, in a free order (log 3). While RSTn is asserted nothing is due. -/
def State.tick (s : State) : State :=
  let t := { s with now := s.now + 1 }
  if t.rstAsserted then t
  else { t.nextDraw with pending := t.pending ++ (t.freeOrder t.dueCodes).map dueCommand }

end Sys2Proof.Machine
end

