-- ==== Sys2Proof/Machine/Window.lean ====
section
/-! DEFINITION. Window accesses and the events of the memory port: WINDOW_ACCESS, WINDOW_REQUEST_COMPLETE,
UNCORRECTABLE_ERROR, SCRUB_BURST_COMPLETE, REFRESH_TIMER_EXPIRY, REFRESH_COMPLETE (chapters 4, 5 and 6). -/

namespace Sys2Proof.Machine

/-! ### Arrival -/

/-- The word-aligned byte address of a window access (R86). -/
def alignedAddr (addr : BitVec 21) : Nat := addr.toNat / 4 * 4

/-- The logical page of a window access (R86). -/
def pageOf (addr : BitVec 21) : Nat := alignedAddr addr / 2048

/-- The word offset of a window access in its page (R86). -/
def offsetOf (addr : BitVec 21) : Nat := alignedAddr addr % 2048 / 4

/-- The checks at arrival, in order (R88): the fault cause, or the translating entry. -/
def arrivalCheck (u : PortUnit) (access : Access) (addr : BitVec 21) (burst : Nat) :
    FaultCause ⊕ MapEntry :=
  if 512 < offsetOf addr + burst then .inl .boundary
  else
    match Sparse.find? (u.mapOf u.context) (pageOf addr) with
    | none => .inl .unmapped
    | some m => if access = .write ∧ m.write = false then .inl .writeProtect else .inr m

/-- The request of an access that passes the arrival checks (R90). -/
def requestOf (p : Port) (u : PortUnit) (m : MapEntry) (access : Access) (addr : BitVec 21) (burst : Nat)
    (enables : BitVec 4) (data : List Word) : Request :=
  { port := p, access := access, frame := m.frame, offset := offsetOf addr, burst := burst,
    enables := enables, data := data, context := u.context, page := pageOf addr,
    addr := alignedAddr addr }

/-- WINDOW_ACCESS (R87 to R90): an OFFLINE port is answered with an error response; a fault at arrival is
answered with an error response and a FAULT record; otherwise the request is posted, or, while a request
of the port from before its reset is in service, waits to be posted at its completion (R101, log 20). -/
def execWindowAccess (p : Port) (access : Access) (addr : BitVec 21) (burst : Nat) (enables : BitVec 4)
    (data : List Word) (s : State) : Host.Outcome State Fault Refusal :=
  if (Instr.windowAccess p access addr burst enables data).wellFormed && s.busServed p then
    let u := s.unit p
    if u.online = false then .next (s.answerBus p true [])
    else
      match arrivalCheck u access addr burst with
      | .inl cause =>
        .next ((s.post p (.fault (alignedAddr addr) u.context access burst cause)).answerBus p true [])
      | .inr m =>
        let r := requestOf p u m access addr burst enables data
        if s.inService p then .next (s.setUnit p { u with held := some r, answer := none })
        else .next ((s.setUnit p { u with request := some r, answer := none }).posted)
  else .next s

/-! ### The request in service -/

/-- The window request in service is performed with these upsets and ends, in error or not (R104, R114,
R115). -/
def State.endWindow (s : State) (r : Request) (discard : Bool) (upsets : List Bits39) : State :=
  let b := performBurst r upsets s.memory
  match b.failedAt with
  | some place => s.endUncorrectable r discard b place
  | none => s.endPerformed r discard b

/-- WINDOW_REQUEST_COMPLETE (R114): the window request in service is performed to its end. If a word of it
decodes UNCORRECTABLE it ends there (R104, log 12). No effect without a window request in service
(log 5). -/
def execWindowRequestComplete (upsets : List Bits39) (s : State) : Host.Outcome State Fault Refusal :=
  match s.memPort with
  | .serving (.window r discard) => .next (s.endWindow r discard upsets)
  | _ => .next s

/-- UNCORRECTABLE_ERROR (R115): the window request in service ends at a word found UNCORRECTABLE. No effect
where no word of it is (log 5, log 12). -/
def execUncorrectableError (upsets : List Bits39) (s : State) : Host.Outcome State Fault Refusal :=
  match s.memPort with
  | .serving (.window r discard) =>
    let b := performBurst r upsets s.memory
    (match b.failedAt with
     | some place => .next (s.endUncorrectable r discard b place)
     | none => .next s)
  | _ => .next s

/-- SCRUB_BURST_COMPLETE (R127): the scrub burst in service has been written (R106); the engine posts the
next burst, or completes the head frame's scrub after burst 63 (R130); then the memory port makes its
next choice (log 18). No effect without a scrub request in service (log 5). -/
def execScrubBurstComplete (s : State) : Host.Outcome State Fault Refusal :=
  match s.memPort with
  | .serving (.scrub q) =>
    let s1 := { s with memory := scrubPlaces q (List.range 8) s.memory }
    let s2 := if q.burst < 63 then s1.postScrub q.frame (q.burst + 1) else s1.completeScrub
    .next s2.afterService
  | _ => .next s

/-! ### Refresh -/

/-- REFRESH_TIMER_EXPIRY (R103): every 7 us; a refresh begins at once if the memory port is IDLE, and is due
otherwise. No effect before the time base reaches the expiry, or while RSTn is asserted (log 5, 21). -/
def execRefreshTimerExpiry (s : State) : Host.Outcome State Fault Refusal :=
  if s.rstAsserted = false ∧ s.refreshAt ≤ s.now then
    let s1 := { s with refreshAt := s.refreshAt + 7 }
    if s.memPort = .idle then .next s1.beginRefresh else .next { s1 with refreshDue := true }
  else .next s

/-- REFRESH_COMPLETE (R103): a further refresh that is due begins, otherwise the arbiter chooses. No effect
before the refresh's 1 us is over, or without one (log 5). -/
def execRefreshComplete (s : State) : Host.Outcome State Fault Refusal :=
  if s.memPort = .refresh ∧ s.refreshEnd ≤ s.now then .next s.afterService else .next s

end Sys2Proof.Machine
end

