-- ==== Sys2Proof/Machine/Dispatch.lean ====
section
/-! DEFINITION. The meaning of each command: one arm a constructor. -/

namespace Sys2Proof.Machine

def exec (i : Instr) (s : State) : Host.Outcome State Fault Refusal :=
  match i with
  | .partReset => Sys2Proof.Machine.execPartReset s
  | .rstnRelease strap => Sys2Proof.Machine.execRstnRelease strap s
  | .portReset p => Sys2Proof.Machine.execPortReset p s
  | .prstnRelease p => Sys2Proof.Machine.execPrstnRelease p s
  | .attach p => Sys2Proof.Machine.execAttach p s
  | .detach p => Sys2Proof.Machine.execDetach p s
  | .probeFrame p => Sys2Proof.Machine.execProbeFrame p s
  | .claim p => Sys2Proof.Machine.execClaim p s
  | .cancel p => Sys2Proof.Machine.execCancel p s
  | .release p => Sys2Proof.Machine.execRelease p s
  | .selectContext p => Sys2Proof.Machine.execSelectContext p s
  | .mapSet p => Sys2Proof.Machine.execMapSet p s
  | .mapClear p => Sys2Proof.Machine.execMapClear p s
  | .mapClearAll p => Sys2Proof.Machine.execMapClearAll p s
  | .probePage p => Sys2Proof.Machine.execProbePage p s
  | .acquireAuthority p => Sys2Proof.Machine.execAcquireAuthority p s
  | .renewAuthority p => Sys2Proof.Machine.execRenewAuthority p s
  | .releaseAuthority p => Sys2Proof.Machine.execReleaseAuthority p s
  | .assign p => Sys2Proof.Machine.execAssign p s
  | .forceRelease p => Sys2Proof.Machine.execForceRelease p s
  | .pin p => Sys2Proof.Machine.execPin p s
  | .unpin p => Sys2Proof.Machine.execUnpin p s
  | .scrub p => Sys2Proof.Machine.execScrub p s
  | .unquarantine p => Sys2Proof.Machine.execUnquarantine p s
  | .mapSetFor p => Sys2Proof.Machine.execMapSetFor p s
  | .mapClearFor p => Sys2Proof.Machine.execMapClearFor p s
  | .setParameter p => Sys2Proof.Machine.execSetParameter p s
  | .badCommand p code => Sys2Proof.Machine.execBadCommand p code s
  | .portStatusWrite p value => Sys2Proof.Machine.execPortStatusWrite p value s
  | .intEnableWrite p value => Sys2Proof.Machine.execIntEnableWrite p value s
  | .eventPop p value => Sys2Proof.Machine.execEventPop p value s
  | .registerWrite p index value => Sys2Proof.Machine.execRegisterWrite p index value s
  | .controlAccessError p access addr burst => Sys2Proof.Machine.execControlAccessError p access addr burst s
  | .windowAccess p access addr burst enables data => Sys2Proof.Machine.execWindowAccess p access addr burst enables data s
  | .windowRequestComplete upsets => Sys2Proof.Machine.execWindowRequestComplete upsets s
  | .uncorrectableError upsets => Sys2Proof.Machine.execUncorrectableError upsets s
  | .scrubBurstComplete => Sys2Proof.Machine.execScrubBurstComplete s
  | .refreshTimerExpiry => Sys2Proof.Machine.execRefreshTimerExpiry s
  | .refreshComplete => Sys2Proof.Machine.execRefreshComplete s
  | .recallDeadline frame => Sys2Proof.Machine.execRecallDeadline frame s
  | .authorityLeaseExpiry => Sys2Proof.Machine.execAuthorityLeaseExpiry s

end Sys2Proof.Machine
end

