-- ==== Sys2Proof/Machine/ControlRegion.lean ====
section
/-! DEFINITION. Transactions of a port bus in the control region (R190, R195): the words that an access names,
the row of the opcode table that each word written is, and what a read is answered. -/

namespace Sys2Proof.Machine

/-- An access lies in the control region whole: 1 to 8 words from word index 0 to 63 on (R190). -/
def controlInRange (addr : BitVec 21) (burst : Nat) : Bool :=
  !inWindow addr && burstInRange burst && controlIndex addr + burst ≤ 64

/-- The row that a write of the word at a control-region index is (R191, R195). -/
def controlWriteRow (p : Port) (index : Nat) (value : Word) : Instr :=
  match index with
  | 1 => .portStatusWrite p value
  | 2 => .intEnableWrite p value
  | 8 => issueOf p value
  | 21 => .eventPop p value
  | _ => .registerWrite p index value

/-- The rows that a write burst of these words, the first at a control-region index, is taken as: one for each
word in ascending index order (R190). -/
def controlWriteRows (p : Port) : Nat → List Word → List Instr
  | _, [] => []
  | index, v :: rest => controlWriteRow p index v :: controlWriteRows p (index + 1) rest

/-- Commands taken one after the other, with nothing between them (R190, log 6). -/
def State.takeRows : List Instr → State → State
  | [], s => s
  | i :: rest, s =>
    match exec i s with
    | .next t => State.takeRows rest t
    | _ => s

/-- A control-region read is taken (R190, R191): it is answered with its words, without error response, and
changes nothing else. All words of a burst are read from one state: R190 keeps only the port's own
transactions from between them, and no other change comes there in the model (DESIGN CHOICE, log 33). An
ignored bus is answered nothing (R164), and neither is a busy one (log 5). No row of the opcode table is a
read (log 7). -/
def State.readControl (s : State) (p : Port) (addr : BitVec 21) (burst : Nat) : State :=
  if s.busServed p then
    s.answerBus p false ((List.range burst).map (fun k => s.controlRead p (controlIndex addr + k)))
  else s

/-- A control-region access is taken (R190): an error response where it does not lie in the region, otherwise
a read's answer, or a write's words in their order. -/
def State.takeControl (s : State) (p : Port) (access : Access) (addr : BitVec 21) (burst : Nat)
    (data : List Word) : State :=
  if controlInRange addr burst then
    match access with
    | .read => s.readControl p addr burst
    | .write => State.takeRows (controlWriteRows p (controlIndex addr) (data.take burst)) s
  else State.takeRows [.controlAccessError p access addr burst] s

end Sys2Proof.Machine
end

