-- ==== Sys2Proof/Safety.lean ====
section
/-! DEFINITION. What every state of a sound run satisfies, in the terms the statements use: the canonical
forms, and the properties that the rules claim of the whole part. -/

namespace Sys2Proof.Safety

open Sys2Proof.Machine

/-- The sparse lists of a state are in canonical form: the array, the directory, the eight map contexts. -/
def Canonical (s : State) : Prop :=
  Memory.wf s.memory ∧ Directory.wf s.dir ∧
    ∀ p, Sparse.rising (s.unit p).map0 ∧ Sparse.rising (s.unit p).map1

/-- Event queues hold at most 16 records (R178), and an OFFLINE port has an empty queue with OVERRUN clear
(R165). -/
def QueuesBounded (s : State) : Prop :=
  ∀ p, (s.unit p).events.length ≤ 16 ∧
    ((s.unit p).online = false → (s.unit p).events = [] ∧ (s.unit p).overrun = false)

/-- The port that holds the token is ONLINE (R140). -/
def TokenHolderOnline (s : State) : Prop := ∀ p, s.token = some p → (s.unit p).online = true

/-- An IDLE memory port has no request waiting, and no refresh due (R103). -/
def IdleHasNoWork (s : State) : Prop :=
  s.memPort = .idle → s.scrubRequest = none ∧ s.refreshDue = false ∧ ∀ p, (s.unit p).request = none

/-- Each requester has at most one request outstanding (R101): a port whose request is in service has none
waiting, an access waits to be posted only while a request from before its port's reset is in service
(log 20), and a port's requests are its own. -/
def OneRequestEach (s : State) : Prop :=
  ∀ p, (s.inService p = true → (s.unit p).request = none) ∧
    ((s.unit p).held ≠ none → ∃ r, s.memPort = .serving (.window r true) ∧ r.port = p) ∧
    ∀ r, (s.unit p).request = some r ∨ (s.unit p).held = some r → r.port = p

/-- The sweep-complete status is set exactly when the UNINITIALIZED count is 0 (R135). -/
def SweepStatusRight (s : State) : Prop :=
  0 < s.frames ∧ (s.sweepComplete = true ↔ s.uninitCount = 0)

/-- While RSTn is asserted the directory, the scrub queue, the sweep-complete status, the recall table, the
deferred list, the memory port, the token and the maps stand at their reset values (R4, R52, R75, R121,
R123, R135, R140). -/
def ResetHolds (s : State) : Prop :=
  s.rstAsserted = true →
    s.dir = [] ∧ s.scrubQueue = [] ∧ s.sweepComplete = false ∧ s.recalls = Vector.replicate 8 none ∧
      s.deferred = [] ∧ s.memPort = .idle ∧ s.scrubRequest = none ∧ s.token = none ∧
      ∀ p, (s.unit p).request = none ∧ (s.unit p).map0 = [] ∧ (s.unit p).map1 = []

/-- The holder set that a frame's state allows (R13), the pin only on a frame in use (R14), and no waiter on
a FREE, POISONED or pinned frame (R33). -/
def EntrySound (e : Entry) : Prop :=
  (match e.state with
   | .uninitialized => e.holders = noPorts
   | .free => e.holders = noPorts
   | .scrubbing => e.holders = noPorts
   | .quarantined => e.holders = noPorts
   | .priv => ∃ p, e.holders = onePort p
   | .shared => e.holders ≠ noPorts
   | .poisoned => True) ∧
  (e.pinned = true → inUse e.state = true) ∧
  (e.state = .free ∨ e.state = .poisoned ∨ e.pinned = true → e.queue = [])

/-- The scrub queue holds at most 16 distinct frames, and exactly those whose state is SCRUBBING (R123). -/
def ScrubQueueSound (s : State) : Prop :=
  s.scrubQueue.length ≤ 16 ∧ (s.scrubQueue.map ScrubEntry.frame).Nodup ∧
    ∀ f, (s.entry f).state = .scrubbing ↔ f ∈ s.scrubQueue.map ScrubEntry.frame

/-- The directory as the rules describe it: every entry sound, the scrub queue as R123 says, and the reset
values while RSTn is asserted. -/
def DirectorySound (s : State) : Prop :=
  (∀ f, EntrySound (s.entry f)) ∧ ScrubQueueSound s ∧ ResetHolds s

/-- The waiters of a frame (R21, R31): no port waits twice, and the holder of a PRIVATE frame does not
wait on it. -/
def WaitersSound (s : State) : Prop :=
  ∀ f, ((s.entry f).queue.map WaitRec.port).Nodup ∧
    ((s.entry f).state = .priv → ∀ w ∈ (s.entry f).queue, (s.entry f).holders.get w.port = false)

/-- The records of the recall table (R53): a record in use concerns a frame in use whose recall field names
it, for its head waiter, and asks a non-empty set of its holders without the head's port. -/
def RecordsSound (s : State) : Prop :=
  ∀ i r, s.recalls.get i = some r →
    (s.entry r.frame).recallField = .active i ∧ inUse (s.entry r.frame).state = true ∧
      (∃ h t, (s.entry r.frame).queue = h :: t ∧ h.port = r.requester ∧ h.mode = r.wanted ∧
        r.toRelease.get h.port = false) ∧
      r.toRelease ≠ noPorts ∧
      ∀ p, r.toRelease.get p = true → (s.entry r.frame).holders.get p = true

/-- The recall fields (R52, R56): a field that names a record is that record's frame's, and the deferred list
holds exactly the frames whose field says deferred, once each. -/
def RecallFieldsSound (s : State) : Prop :=
  (∀ f i, (s.entry f).recallField = .active i → ∃ r, s.recalls.get i = some r ∧ r.frame = f) ∧
  (s.deferred.map Deferred.frame).Nodup ∧
  ∀ f, (s.entry f).recallField = .deferred ↔ f ∈ s.deferred.map Deferred.frame

/-- No waiter is forgotten (R35, R58): a frame in use whose head waits for another port's holding has its
recall in being, active or deferred, and a record is free only while the deferred list is empty. -/
def RecallsPursued (s : State) : Prop :=
  (∀ f, needsRecall (s.entry f) = true → (s.entry f).recallField ≠ .none) ∧
  (s.deferred ≠ [] → ∀ i, s.recalls.get i ≠ none)

/-- The recall unit as R52 to R58 describe it. -/
def RecallsSound (s : State) : Prop :=
  WaitersSound s ∧ RecordsSound s ∧ RecallFieldsSound s ∧ RecallsPursued s

/-- The QUARANTINED and POISONED counts are the numbers of entries in those states (R16). -/
def StateCountsRight (s : State) : Prop :=
  s.quarantinedCount = s.dir.countP (fun c => c.2.state == .quarantined) ∧
    s.poisonedCount = s.dir.countP (fun c => c.2.state == .poisoned)

/-- The listed frames are frames of the part, and the UNINITIALIZED count is the number of frames of the part
whose entry is in that state (R16). -/
def UninitCountRight (s : State) : Prop :=
  (∀ c ∈ s.dir, c.1 < s.frames) ∧
    s.uninitCount = (List.range s.frames).countP (fun f => (s.entry f).state == .uninitialized)

/-- A port's holding count is the number of frames it holds (R163). -/
def HoldingCountsRight (s : State) : Prop :=
  ∀ p, (s.unit p).holding = s.dir.countP (fun c => c.2.holders.get p)

/-- A port's waiting count is the number of its records in the wait queues, at most 8, no port waits twice on
a frame, and the records in use and the free ones are 32 (R19, R21). -/
def WaitCountsRight (s : State) : Prop :=
  (∀ c ∈ s.dir, (c.2.queue.map WaitRec.port).Nodup) ∧
  (∀ p, (s.unit p).waiting ≤ 8 ∧
    (s.unit p).waiting = (s.dir.map (fun c => c.2.queue.countP (fun w => w.port == p))).sum) ∧
  s.poolFree + (allPorts.map (fun p => (s.unit p).waiting)).sum = 32

/-- An OFFLINE port holds no frame, has no waiting claim, is in no to-release set and has no valid map entry
(R165). -/
def OfflineHoldsNothing (s : State) : Prop :=
  ∀ p, (s.unit p).online = false →
    (∀ f, (s.entry f).holders.get p = false ∧ waitsIn (s.entry f).queue p = false) ∧
      (∀ i r, s.recalls.get i = some r → r.toRelease.get p = false) ∧
      (s.unit p).map0 = [] ∧ (s.unit p).map1 = []

/-- The parameters are in their range (R147). -/
def ParametersInRange (s : State) : Prop :=
  (1 ≤ s.recallTimeout ∧ s.recallTimeout ≤ 65535) ∧ 1 ≤ s.leaseParam ∧ s.leaseParam ≤ 65535

/-- A valid map entry names a frame of the part (R2). -/
def MapsNameFrames (s : State) : Prop :=
  ∀ p c, ∀ m ∈ (s.unit p).mapOf c, m.2.frame < s.frames

/-! ### The terms of the statements about one command -/

/-- A port's commands reach their owners: its bus is served (R164, R87) and it is ONLINE (R193). -/
abbrev Ready (s : State) (p : Port) : Prop := s.busServed p = true ∧ (s.unit p).online = true

/-- The same for an authority command: the port holds the token (R193 check 3). -/
abbrev ReadyWithToken (s : State) (p : Port) : Prop := Ready s p ∧ s.token = some p

/-- A state in which a port's command has been answered: COMMAND keeps the value written, the bus write is
answered without error response, and the four result words are as given (R192, R194). -/
def answered (s : State) (p : Port) (code : Word) (results : Words4) : State :=
  s.setUnit p { s.unit p with command := code, answer := some ⟨false, []⟩, results := results }

/-- A state in which the lease has been renewed (R143): the deadline is the present time plus the lease
parameter, in units of 1 ms of the 1 us time base. -/
def renewed (s : State) : State := { s with leaseDeadline := s.now + s.leaseParam * 1000 }

/-- A port unit changes at most in its event queue, OVERRUN, its holding count and its waiting count. -/
def UnitDirectoryChange (u v : PortUnit) : Prop :=
  v = { u with events := v.events, overrun := v.overrun, holding := v.holding, waiting := v.waiting }

/-- A state changes at most in the directory and its counts, the wait pool, the recall table, the deferred
list, the sweep-complete status, and in its port units as a directory change. -/
def DirectoryChange (s t : State) : Prop :=
  t = { s with dir := t.dir, uninitCount := t.uninitCount, quarantinedCount := t.quarantinedCount,
               poisonedCount := t.poisonedCount, poolFree := t.poolFree, recalls := t.recalls,
               deferred := t.deferred, sweepComplete := t.sweepComplete, ports := t.ports } ∧
    ∀ p, UnitDirectoryChange (s.unit p) (t.unit p)

/-- The requesters by their places in the ring, counted on from P0 (R102: P0, P1, P2, P3, the scrub engine,
and round again). -/
def requesterAt (n : Nat) : Requester :=
  match n % 5 with
  | 0 => .port .P0
  | 1 => .port .P1
  | 2 => .port .P2
  | 3 => .port .P3
  | _ => .scrub

/-- A requester has no request waiting (R101). -/
def NothingWaitingAt (s : State) (x : Requester) : Prop :=
  match x with
  | .port p => (s.unit p).request = none
  | .scrub => s.scrubRequest = none

/-- No request waits at the arbiter (R101). -/
abbrev NoneWaiting (s : State) : Prop := s.scrubRequest = none ∧ ∀ p, (s.unit p).request = none

end Sys2Proof.Safety
end

