-- ==== Sys2Proof/Certificates/Slice0/Obligations.lean ====
section
/-! DEFINITION. The statements for the provers, grouped as OBLIGATIONS.json lists them: the machine and its
invariants, isolation, commands refused, encodings, and what each command does. -/

open Sys2Proof Sys2Proof.Machine Sys2Proof.Safety

/-! ### The machine -/

/-- A step takes the command at the front of the queue and runs it with the queue's rest. -/
def Obligations.StepRunsFrontCommand : Prop :=
  ∀ (c : Instr) (rest : List Instr) (s : State), s.pending = c :: rest →
    step s = exec c { s with pending := rest }

/-- THE MODEL'S CHOICE (log 2, log 3): with no command waiting a step lets 1 us pass. While RSTn is asserted
nothing else changes; otherwise the timer events that are then due join the queue, each once, in some
order: the lease's expiry while the token is held, the refresh timer's, the end of a refresh in progress, and
the deadline of each recall record in use. -/
def Obligations.IdleStepLetsTimePass : Prop :=
  ∀ s : State, s.pending = [] →
    (s.rstAsserted = true → step s = .next { s with now := s.now + 1 }) ∧
    (s.rstAsserted = false →
      ∃ due : List Instr,
        due.Perm
          ((if s.token ≠ none ∧ s.leaseDeadline ≤ s.now + 1 then [.authorityLeaseExpiry] else []) ++
            (if s.refreshAt ≤ s.now + 1 then [.refreshTimerExpiry] else []) ++
            (if s.memPort = .refresh ∧ s.refreshEnd ≤ s.now + 1 then [.refreshComplete] else []) ++
            (List.finRange 8).filterMap (fun i =>
              match s.recalls.get i with
              | some r => if r.deadline ≤ s.now + 1 then some (.recallDeadline r.frame) else none
              | none => none)) ∧
        step s = .next { s with now := s.now + 1, draws := s.draws + 1, pending := due })

/-- Every command answers a next state: none faults and none is refused. No command changes the queue or the
time base (the model's own form: log 2). -/
def Obligations.EveryCommandAnswersNext : Prop :=
  ∀ (i : Instr) (s : State), ∃ t, exec i s = .next t ∧ t.pending = s.pending ∧ t.now = s.now

/-- Part reset (R4, R16, R19 to R21, R52, R75, R102, R103, R121, R123, R135, R140, R147, R162): every block
takes its reset values, whatever it was doing; no refresh is due and the refresh timer restarts. That F
(log 1), the time base (log 21) and the PRSTn pins (log 23) stay is the model's choice. With no request in
service the array is untouched, and no word outside the burst in service is. -/
def Obligations.PartResetClearsPart : Prop :=
  ∀ s : State, ∃ t, exec .partReset s = .next t ∧
    t.rstAsserted = true ∧ (∀ f, t.entry f = Entry.reset) ∧
    t.uninitCount = s.frames ∧ t.quarantinedCount = 0 ∧ t.poisonedCount = 0 ∧
    t.poolFree = 32 ∧ t.arrival = 0 ∧ (∀ i, t.recalls.get i = none) ∧ t.deferred = [] ∧
    t.token = none ∧ t.recallTimeout = 1000 ∧ t.leaseParam = 250 ∧
    t.scrubQueue = [] ∧ t.sweepComplete = false ∧ t.scrubRequest = none ∧
    t.memPort = .idle ∧ t.arbiter = .port .P0 ∧ t.refreshDue = false ∧ t.refreshAt = s.now + 7 ∧
    (∀ p, t.unit p = PortUnit.reset (s.unit p).prst) ∧
    t.frames = s.frames ∧ t.now = s.now ∧ t.pending = s.pending ∧
    (Memory.wf s.memory → Memory.wf t.memory) ∧
    ((∀ v, s.memPort ≠ .serving v) → t.memory = s.memory) ∧
    (∀ r d a, s.memPort = .serving (.window r d) → (∀ i < r.burst, a ≠ wordAddr r i) →
      readStored t.memory a = readStored s.memory a) ∧
    (∀ q a, s.memPort = .serving (.scrub q) → (∀ i < 8, a ≠ scrubAddr q i) →
      readStored t.memory a = readStored s.memory a)

/-- Every invariant that the statements below show to be kept holds of the machine right after reset. -/
def Obligations.ResetSatisfiesInvariants : Prop :=
  Canonical State.reset ∧ QueuesBounded State.reset ∧ TokenHolderOnline State.reset ∧
    IdleHasNoWork State.reset ∧ SweepStatusRight State.reset ∧ DirectorySound State.reset ∧
    RecallsSound State.reset ∧ StateCountsRight State.reset ∧ HoldingCountsRight State.reset ∧
    OneRequestEach State.reset ∧ UninitCountRight State.reset ∧ OfflineHoldsNothing State.reset ∧
    WaitCountsRight State.reset ∧ ParametersInRange State.reset ∧ MapsNameFrames State.reset

/-! ### Invariants that every step keeps -/

/-- The array, the directory and the maps keep their canonical forms. -/
def Obligations.StepKeepsCanonicalForms : Prop :=
  ∀ s t : State, Canonical s → step s = .next t → Canonical t

/-- No event queue grows beyond 16 records, and an OFFLINE port has an empty queue with OVERRUN clear (R165,
R178, R181). An OFFLINE port also holds no frame, has no waiting claim, is in no to-release set and has no
valid map entry (R165), while the directory, the recall unit and the holding counts are sound. -/
def Obligations.StepKeepsQueueBounds : Prop :=
  (∀ s t : State, QueuesBounded s → step s = .next t → QueuesBounded t) ∧
  (∀ s t : State, Directory.wf s.dir → DirectorySound s → RecallsSound s → HoldingCountsRight s →
    OfflineHoldsNothing s → step s = .next t → OfflineHoldsNothing t)

/-- An IDLE memory port never leaves a request or a due refresh waiting (R103), and no port ever has a second
request outstanding: none is posted while one of its own is in service, even one from before its reset
(R101; the access then waits to be posted: log 20). -/
def Obligations.StepKeepsIdlePortWithoutWork : Prop :=
  (∀ s t : State, IdleHasNoWork s → step s = .next t → IdleHasNoWork t) ∧
  (∀ s t : State, OneRequestEach s → step s = .next t → OneRequestEach t)

/-- The sweep-complete status is set exactly when the UNINITIALIZED count is 0 (R16, R135), and while RSTn is
asserted the blocks stay at their reset values. -/
def Obligations.StepKeepsSweepStatus : Prop :=
  ∀ s t : State, SweepStatusRight s ∧ ResetHolds s → step s = .next t →
    SweepStatusRight t ∧ ResetHolds t

/-- The directory stays sound: the holder set that each state allows (R13), the pin only on frames in use
(R14), no waiter on a FREE, POISONED or pinned frame (R33), the scrub queue of at most 16 distinct frames
that are exactly the SCRUBBING ones (R123). -/
def Obligations.StepKeepsDirectorySound : Prop :=
  ∀ s t : State, Directory.wf s.dir ∧ DirectorySound s → step s = .next t →
    Directory.wf t.dir ∧ DirectorySound t

/-- The recall unit stays sound (R35, R52 to R58): each record in use belongs to one frame's head waiter and
asks a non-empty set of the frame's other holders; the deferred list is exactly the frames whose field says
so; and a waiting head that other holders stand in the way of always has its recall in being. -/
def Obligations.StepKeepsRecallsSound : Prop :=
  ∀ s t : State, Directory.wf s.dir ∧ DirectorySound s ∧ RecallsSound s → step s = .next t →
    Directory.wf t.dir ∧ DirectorySound t ∧ RecallsSound t

/-- The QUARANTINED and POISONED counts stay the numbers of entries in those states, and the UNINITIALIZED
count the number of frames of the part in that state (R16); a port's holding count stays the number of frames
whose holder set it is in (R163). -/
def Obligations.StepKeepsDirectoryCounts : Prop :=
  (∀ s t : State, Directory.wf s.dir ∧ StateCountsRight s ∧ HoldingCountsRight s → step s = .next t →
    Directory.wf t.dir ∧ StateCountsRight t ∧ HoldingCountsRight t) ∧
  (∀ s t : State, Directory.wf s.dir → DirectorySound s → UninitCountRight s → step s = .next t →
    UninitCountRight t)

/-- The 32 wait records are never lost or used twice, a port's waiting count stays the number of its records
in the wait queues and at most 8, and no port waits twice on a frame (R19, R21, R22). -/
def Obligations.StepKeepsWaitCounts : Prop :=
  ∀ s t : State, Directory.wf s.dir ∧ WaitCountsRight s → step s = .next t →
    Directory.wf t.dir ∧ WaitCountsRight t

/-- The parameters stay in their range (R147, R148), and valid map entries keep naming frames of the part
(R2). -/
def Obligations.StepKeepsRanges : Prop :=
  ∀ s t : State, ParametersInRange s ∧ ResetHolds s ∧ MapsNameFrames s → step s = .next t →
    ParametersInRange t ∧ ResetHolds t ∧ MapsNameFrames t

/-! ### Isolation -/

/-- The array changes only in a burst's completion, an uncorrectable error, a scrub burst and a part reset:
no command of a port and no arrival writes it (R95, R98, R104, R105). -/
def Obligations.ArrayChangesOnlyByBursts : Prop :=
  ∀ (i : Instr) (s t : State), exec i s = .next t → t.memory ≠ s.memory →
    (∃ u, i = .windowRequestComplete u) ∨ (∃ u, i = .uncorrectableError u) ∨
      i = .scrubBurstComplete ∨ i = .partReset

/-- The token is granted by ACQUIRE_AUTHORITY alone, to the port that issues it, and only while it is free
(R140, R141); it is freed only by RELEASE_AUTHORITY, DETACH or port reset of its holder, by the expiry of
the lease and by part reset (R144, R145). The port that holds it stays ONLINE. -/
def Obligations.TokenChangesHands : Prop :=
  (∀ (i : Instr) (s t : State) (p : Port), exec i s = .next t → t.token = some p → s.token ≠ some p →
    i = .acquireAuthority p ∧ s.token = none) ∧
  (∀ (i : Instr) (s t : State) (p : Port), exec i s = .next t → s.token = some p → t.token = none →
    i = .releaseAuthority p ∨ i = .detach p ∨ i = .portReset p ∨ i = .authorityLeaseExpiry ∨
      i = .partReset) ∧
  (∀ s t : State, TokenHolderOnline s → step s = .next t → TokenHolderOnline t)

/-- A command that a port writes to COMMAND, other than the two that name another port's map, touches no other
port's unit but for records queued to it and its holding and waiting counts: not its lifecycle state,
arguments, results, interrupt enable, maps, request or answer (R85, R162, R192). -/
def Obligations.PortCommandsKeepOtherUnits : Prop :=
  ∀ (i : Instr) (code : Word) (p q : Port) (s t : State),
    codeOf i = some code → portOf i = some p → q ≠ p → i ≠ .mapSetFor p → i ≠ .mapClearFor p →
    IdleHasNoWork s → exec i s = .next t → UnitDirectoryChange (s.unit q) (t.unit q)

/-- A window request enters service only if, as the directory then stands, the frame is not POISONED, the port
holds it, and for a write holds it PRIVATE (R92, R105). -/
def Obligations.ServedAccessHoldsItsFrame : Prop :=
  ∀ (i : Instr) (s t : State) (r : Request), exec i s = .next t →
    t.memPort = .serving (.window r false) → s.memPort ≠ t.memPort →
    (t.entry r.frame).holders.get r.port = true ∧ (t.entry r.frame).state ≠ .poisoned ∧
      (r.access = .write → (t.entry r.frame).state = .priv)

/-! ### Commands refused before they reach their owner -/

/-- While a reset is asserted, the bus of a port is ignored (R164); the model ignores also a transaction on a
bus that is not free (log 5). A port that is OFFLINE is refused OFFLINE for every command of the table but
ATTACH and PROBE_FRAME, with nothing else changed (R193 check 2). -/
def Obligations.UnservedOrOfflinePortChangesNothing : Prop :=
  (∀ (i : Instr) (p : Port) (s : State), portOf i = some p → i ≠ .portReset p → i ≠ .prstnRelease p →
    s.busServed p = false → exec i s = .next s) ∧
  (∀ (i : Instr) (code : Word) (p : Port) (s : State), codeOf i = some code → portOf i = some p →
    (∀ v, i ≠ .badCommand p v) → i ≠ .attach p → i ≠ .probeFrame p →
    s.busServed p = true → (s.unit p).online = false →
    exec i s = .next (answered s p code ⟨3, 0, 0, 0⟩))

/-- An argument out of its range is refused RANGE by the admission checks (R193 check 4): the frame beyond F
of CLAIM, CANCEL, RELEASE and PROBE_FRAME (R2), a mode that is neither 1 nor 2, a tag above 255, a context
above 1, a page above 511, a yes or no that is neither 0 nor 1. -/
def Obligations.ArgumentsOutOfRangeRefused : Prop :=
  ∀ (p : Port) (s : State), Ready s p →
    (s.frames ≤ s.arg p 0 ∨ s.arg p 1 = 0 ∨ 2 < s.arg p 1 ∨ 255 < s.arg p 2 →
      exec (.claim p) s = .next (answered s p 0x10 ⟨5, 0, 0, 0⟩)) ∧
    (s.frames ≤ s.arg p 0 → exec (.cancel p) s = .next (answered s p 0x11 ⟨5, 0, 0, 0⟩)) ∧
    (s.frames ≤ s.arg p 0 → exec (.probeFrame p) s = .next (answered s p 0x03 ⟨5, 0, 0, 0⟩)) ∧
    (s.frames ≤ s.arg p 0 ∨ 1 < s.arg p 1 →
      exec (.release p) s = .next (answered s p 0x12 ⟨5, 0, 0, 0⟩)) ∧
    (1 < s.arg p 0 →
      exec (.selectContext p) s = .next (answered s p 0x20 ⟨5, 0, 0, 0⟩) ∧
      exec (.mapClearAll p) s = .next (answered s p 0x23 ⟨5, 0, 0, 0⟩)) ∧
    (1 < s.arg p 0 ∨ 511 < s.arg p 1 ∨ s.frames ≤ s.arg p 2 ∨ 1 < s.arg p 3 →
      exec (.mapSet p) s = .next (answered s p 0x21 ⟨5, 0, 0, 0⟩)) ∧
    (1 < s.arg p 0 ∨ 511 < s.arg p 1 →
      exec (.mapClear p) s = .next (answered s p 0x22 ⟨5, 0, 0, 0⟩) ∧
      exec (.probePage p) s = .next (answered s p 0x24 ⟨5, 0, 0, 0⟩))

/-- Each of the eleven authority commands, RELEASE_AUTHORITY among them, is refused DENIED from a port that
does not hold the token, with nothing else changed and no lease renewed (R143, R145, R193 check 3). From the
holder, an argument out of its range is refused RANGE and renews the lease: the frame, the port and the mode
of ASSIGN; the frame and the port of FORCE_RELEASE; the frame of PIN, UNPIN, SCRUB and UNQUARANTINE; the
port, the context and the page of MAP_SET_FOR and MAP_CLEAR_FOR, and the frame and the write half of
MAP_SET_FOR's ARG3 (R197). -/
def Obligations.AuthorityCommandsGuarded : Prop :=
  (∀ (i : Instr) (code : Word) (p : Port) (s : State), codeOf i = some code → portOf i = some p →
    i ∈ [.renewAuthority p, .releaseAuthority p, .assign p, .forceRelease p, .pin p, .unpin p, .scrub p,
      .unquarantine p, .mapSetFor p, .mapClearFor p, .setParameter p] →
    Ready s p → s.token ≠ some p → exec i s = .next (answered s p code ⟨4, 0, 0, 0⟩)) ∧
  (∀ (i : Instr) (code : Word) (p : Port) (s : State), codeOf i = some code → portOf i = some p →
    i ∈ [.assign p, .forceRelease p, .pin p, .unpin p, .scrub p, .unquarantine p] →
    ReadyWithToken s p → s.frames ≤ s.arg p 0 →
    exec i s = .next (renewed (answered s p code ⟨5, 0, 0, 0⟩))) ∧
  (∀ (i : Instr) (code : Word) (p : Port) (s : State), codeOf i = some code → portOf i = some p →
    i ∈ [.mapSetFor p, .mapClearFor p] →
    ReadyWithToken s p → 3 < s.arg p 0 ∨ 1 < s.arg p 1 ∨ 511 < s.arg p 2 →
    exec i s = .next (renewed (answered s p code ⟨5, 0, 0, 0⟩))) ∧
  (∀ (p : Port) (s : State), ReadyWithToken s p →
    (3 < s.arg p 1 ∨ s.arg p 2 = 0 ∨ 2 < s.arg p 2 →
      exec (.assign p) s = .next (renewed (answered s p 0x40 ⟨5, 0, 0, 0⟩))) ∧
    (3 < s.arg p 1 →
      exec (.forceRelease p) s = .next (renewed (answered s p 0x41 ⟨5, 0, 0, 0⟩))) ∧
    (s.frames ≤ s.arg p 3 % 65536 ∨ 1 < s.arg p 3 / 65536 →
      exec (.mapSetFor p) s = .next (renewed (answered s p 0x46 ⟨5, 0, 0, 0⟩))))

/-! ### Encodings -/

/-- The command codes (R197): the row that a written value issues is a row of that value and port, and a
well-formed command of the table is the row that its code issues. -/
def Obligations.CommandCodesRoundTrip : Prop :=
  (∀ (p : Port) (v : Word),
    codeOf (issueOf p v) = some v ∧ portOf (issueOf p v) = some p ∧ (issueOf p v).wellFormed = true) ∧
  (∀ (i : Instr) (p : Port) (v : Word), i.wellFormed = true → portOf i = some p → codeOf i = some v →
    issueOf p v = i)

/-- Packing (R199): in a word of fields that fit it, each field, cut to its width, stands above the widths of
those before it. -/
def Obligations.PackPlacesFields : Prop :=
  ∀ (before after : List (Nat × Nat)) (w v : Nat),
    (before.map Prod.fst).sum + w + (after.map Prod.fst).sum ≤ 32 →
    (pack (before ++ (w, v) :: after)).toNat / 2 ^ (before.map Prod.fst).sum % 2 ^ w = v % 2 ^ w

/-- The words of an event record (R200), by kind: the kind's number, then the fields at the places of the
table. Frames and addresses are those of the part: below 2^14, and below 2^21. -/
def Obligations.EventRecordWords : Prop :=
  ∀ (f : Nat), f < 16384 →
    (∀ (m : Mode) (tag : BitVec 8) (forced assigned upgraded : Bool),
      recordWords (.grant f m tag forced assigned upgraded) =
        ⟨1, BitVec.ofNat 32 f, BitVec.ofNat 32 tag.toNat,
          BitVec.ofNat 32 (modeCode m + 256 * forced.toNat + 512 * assigned.toNat +
            1024 * upgraded.toNat)⟩) ∧
    (∀ (q : Port) (m : Mode) (timeout : Nat), timeout < 65536 →
      recordWords (.recallNotice f q m timeout) =
        ⟨2, BitVec.ofNat 32 f, BitVec.ofNat 32 (portNumber q + 256 * modeCode m),
          BitVec.ofNat 32 timeout⟩) ∧
    (∀ c : RevokeCause, recordWords (.revoked f c) =
      ⟨3, BitVec.ofNat 32 f, BitVec.ofNat 32 (revokeCode c), 0⟩) ∧
    recordWords (.poisoned f) = ⟨4, BitVec.ofNat 32 f, 0, 0⟩ ∧
    (∀ tag : BitVec 8, recordWords (.refused f tag) =
      ⟨5, BitVec.ofNat 32 f, BitVec.ofNat 32 tag.toNat, 1⟩) ∧
    (∀ (addr : Nat) (c : Context) (a : Access) (burst : Nat) (cause : FaultCause), addr < 2097152 →
      burst ≤ 8 → recordWords (.fault addr c a burst cause) =
        ⟨6, BitVec.ofNat 32 addr, BitVec.ofNat 32 (contextNumber c + 256 * accessCode a),
          BitVec.ofNat 32 (burst + 256 * causeCode cause)⟩) ∧
    (∀ q : Port, recordWords (.quarantined f q) =
      ⟨7, BitVec.ofNat 32 f, BitVec.ofNat 32 (portNumber q), 0⟩) ∧
    recordWords (.scrubDone f) = ⟨8, BitVec.ofNat 32 f, 0, 0⟩ ∧
    recordWords .authorityLapsed = ⟨9, 0, 0, 0⟩ ∧
    (∀ (s : State) (p : Port), (s.unit p).events = [] →
      s.controlRead p 16 = 0 ∧ s.controlRead p 17 = 0 ∧ s.controlRead p 18 = 0 ∧
        s.controlRead p 19 = 0) ∧
    (∀ (s : State) (p : Port) (r : EventRecord) (rest : List EventRecord),
      (s.unit p).events = r :: rest →
      s.controlRead p 16 = (recordWords r).w0 ∧ s.controlRead p 17 = (recordWords r).w1 ∧
        s.controlRead p 18 = (recordWords r).w2 ∧ s.controlRead p 19 = (recordWords r).w3)

/-- PORT_STATUS and INT_ENABLE as they read (R196): each field is its owner's state at that moment, and a
write of PORT_STATUS with bit 3 at 0 changes nothing but the bus answer, one with bit 3 at 1 clears OVERRUN.
The interrupt (R188) is asserted exactly while the enable is set and a record waits or OVERRUN is set, never
under RSTn, and never for an OFFLINE port (whose queue is empty: R165): a record queued to an ONLINE port
asserts it, a port reset and a DETACH deassert it. -/
def Obligations.PortStatusAndInterrupt : Prop :=
  ∀ (s : State) (p : Port),
    ((s.controlRead p 1).getLsbD 0 = (s.unit p).online) ∧
    ((s.controlRead p 1).getLsbD 1 = true ↔ s.token = some p) ∧
    ((s.controlRead p 1).getLsbD 2 = true ↔
      ∃ i r, s.recalls.get i = some r ∧ r.toRelease.get p = true) ∧
    ((s.controlRead p 1).getLsbD 3 = (s.unit p).overrun) ∧
    ((s.controlRead p 1).getLsbD 4 = s.sweepComplete) ∧
    ((s.controlRead p 1).getLsbD 5 = true ↔ (s.unit p).context = .c1) ∧
    ((s.controlRead p 1).toNat / 256 % 4 = portNumber p) ∧
    ((s.controlRead p 2).getLsbD 0 = (s.unit p).intEnable) ∧
    ((s.controlRead p 1).toNat < 1024 ∧ (s.controlRead p 2).toNat < 2) ∧
    (∀ v : Word, v.getLsbD 3 = false → s.busServed p = true → exec (.portStatusWrite p v) s =
      .next (s.setUnit p { s.unit p with answer := some ⟨false, []⟩ })) ∧
    (∀ v : Word, v.getLsbD 3 = true → s.busServed p = true →
      ∃ t, exec (.portStatusWrite p v) s = .next t ∧ (t.controlRead p 1).getLsbD 3 = false ∧
        t = s.setUnit p { s.unit p with overrun := false, answer := some ⟨false, []⟩ }) ∧
    (s.rstAsserted = false →
      (s.irq p = true ↔ (s.unit p).intEnable = true ∧
        ((s.unit p).events ≠ [] ∨ (s.unit p).overrun = true))) ∧
    (s.rstAsserted = true → s.irq p = false) ∧
    (QueuesBounded s → (s.unit p).online = false → s.irq p = false) ∧
    (∀ r : EventRecord, (s.unit p).online = true → (s.unit p).intEnable = true →
      s.rstAsserted = false → (s.post p r).irq p = true) ∧
    (∀ t : State, exec (.portReset p) s = .next t ∨
        (Ready s p ∧ (s.unit p).holding = 0 ∧ exec (.detach p) s = .next t) → t.irq p = false)

/-! ### Writes to the control region -/

/-- EVENT_POP (R183): the head record leaves the queue, whatever value is written, and nothing else changes
but the answer on the bus: not OVERRUN, the result words or the lease. On an empty queue nothing leaves.
EVENT0 to EVENT3 then show the record that was behind, EVENT_COUNT is one less, and EVENT_POP reads 0. -/
def Obligations.EventPopRemovesHead : Prop :=
  ∀ (p : Port) (v : Word) (s : State), s.busServed p = true →
    ((s.unit p).events = [] → exec (.eventPop p v) s =
      .next (s.setUnit p { s.unit p with answer := some ⟨false, []⟩ })) ∧
    (∀ (r : EventRecord) (rest : List EventRecord), (s.unit p).events = r :: rest →
      ∃ t, exec (.eventPop p v) s = .next t ∧
        t = s.setUnit p { s.unit p with events := rest, answer := some ⟨false, []⟩ } ∧
        t.headRecord p = (match rest with | [] => Words4.zero | n :: _ => recordWords n) ∧
        (rest.length < 16 →
          (s.controlRead p 20).toNat = (t.controlRead p 20).toNat + 1)) ∧
    s.controlRead p 21 = 0

/-- The interrupt enable (section 9.5): a write sets it to bit 0 of the value and changes nothing else, in either
lifecycle state, and a read returns it. Part reset and port reset clear it; ATTACH and DETACH keep it.
Whether a record is kept or discarded, and what any other word reads, does not depend on it. -/
def Obligations.InterruptEnable : Prop :=
  (∀ (p : Port) (v : Word) (s : State), s.busServed p = true →
    exec (.intEnableWrite p v) s =
      .next (s.setUnit p
        { s.unit p with intEnable := v.getLsbD 0, answer := some ⟨false, []⟩ })) ∧
  (∀ (s : State) (p : Port), s.controlRead p 2 = if (s.unit p).intEnable then 1 else 0) ∧
  (∀ (s t : State) (p : Port), exec .partReset s = .next t → (t.unit p).intEnable = false) ∧
  (∀ (s t : State) (p : Port), s.rstAsserted = false → exec (.portReset p) s = .next t →
    (t.unit p).intEnable = false) ∧
  (∀ (s t : State) (p q : Port), exec (.attach p) s = .next t ∨ exec (.detach p) s = .next t →
    (t.unit q).intEnable = (s.unit q).intEnable) ∧
  (∀ (u : PortUnit) (b : Bool) (r : EventRecord),
    postUnit { u with intEnable := b } r = { postUnit u r with intEnable := b }) ∧
  (∀ (s : State) (p : Port) (b : Bool) (n : Nat), n ≠ 2 →
    (s.setUnit p { s.unit p with intEnable := b }).controlRead p n = s.controlRead p n)

/-- The other writes of the control region. BAD_COMMAND: the value is kept and the answer is code 2 (R193
check 1). PORT_STATUS: a one in bit 3 clears OVERRUN, anything else is ignored (R185). An ARG word keeps
the value; a read-only or unnamed word ignores it (R191). An access beyond word 63 is answered with an error
response and does nothing (R190). Which row a written word is follows from its address 0x10_0000 + 4 x index
(R195). A write burst is its first word, then the rest with nothing between (R190, log 6); a read is answered
with its words in ascending index order, all read from one state, and changes nothing else (R190, logs 7 and
33). An ignored bus takes neither (R164), and in the model neither does a bus whose transaction is under way
(log 5). -/
def Obligations.ControlRegionWrites : Prop :=
  ∀ (p : Port) (s : State), s.busServed p = true →
    (∀ code : Word, issueOf p code = .badCommand p code →
      exec (.badCommand p code) s = .next (answered s p code ⟨2, 0, 0, 0⟩)) ∧
    (∀ v : Word, v.getLsbD 3 = true → exec (.portStatusWrite p v) s =
      .next (s.setUnit p { s.unit p with overrun := false, answer := some ⟨false, []⟩ })) ∧
    (∀ v : Word, v.getLsbD 3 = false → exec (.portStatusWrite p v) s =
      .next (s.setUnit p { s.unit p with answer := some ⟨false, []⟩ })) ∧
    (∀ (n : Nat) (v : Word), n < 4 → ∃ t, exec (.registerWrite p (4 + n) v) s = .next t ∧
      t.controlRead p (4 + n) = v ∧
      (∀ m < 4, m ≠ n → t.controlRead p (4 + m) = s.controlRead p (4 + m)) ∧
      t = s.setUnit p { s.unit p with args := (t.unit p).args, answer := some ⟨false, []⟩ }) ∧
    (∀ (n : Nat) (v : Word), plainRegister n = true → n < 4 ∨ 7 < n →
      exec (.registerWrite p n v) s =
        .next (s.setUnit p { s.unit p with answer := some ⟨false, []⟩ })) ∧
    (∀ (a : Access) (addr : BitVec 21) (burst : Nat), 0x100000 ≤ addr.toNat →
      1 ≤ burst → burst ≤ 8 → 64 < (addr.toNat - 0x100000) / 4 + burst →
      exec (.controlAccessError p a addr burst) s =
        .next (s.setUnit p { s.unit p with answer := some ⟨true, []⟩ }) ∧
      ∀ data, s.takeControl p a addr burst data =
        s.setUnit p { s.unit p with answer := some ⟨true, []⟩ }) ∧
    (∀ (n : Nat) (v : Word) (addr : BitVec 21), n < 64 → addr.toNat = 0x100000 + 4 * n →
      exec
        (if n = 1 then .portStatusWrite p v else if n = 2 then .intEnableWrite p v
          else if n = 8 then issueOf p v else if n = 21 then .eventPop p v
          else .registerWrite p n v) s = .next (s.takeControl p .write addr 1 [v])) ∧
    (∀ (n : Nat) (v : Word) (rest : List Word) (addr : BitVec 21), rest ≠ [] → rest.length < 8 →
      n + 1 + rest.length ≤ 64 → addr.toNat = 0x100000 + 4 * n →
      s.takeControl p .write addr (rest.length + 1) (v :: rest) =
        (s.takeControl p .write addr 1 [v]).takeControl p .write (addr + 4) rest.length rest) ∧
    (∀ (n burst : Nat) (addr : BitVec 21), 1 ≤ burst → burst ≤ 8 → n + burst ≤ 64 →
      addr.toNat / 4 * 4 = 0x100000 + 4 * n →
      s.takeControl p .read addr burst [] =
        s.setUnit p { s.unit p with
          answer := some ⟨false, (List.range burst).map (fun k => s.controlRead p (n + k))⟩ }) ∧
    (∀ (u : State) (a : Access) (addr : BitVec 21) (burst : Nat) (data : List Word),
      u.rstAsserted = true ∨ (u.unit p).prst = true → u.takeControl p a addr burst data = u) ∧
    (∀ (u : State) (a : Access) (addr : BitVec 21) (burst : Nat) (data : List Word),
      u.busServed p = false → u.takeControl p a addr burst data = u)

/-! ### Resets and lifecycle -/

/-- RSTN_RELEASE (R1, R133, R102): F is 1024, 2048, 4096 or 8192 by the strap; frame 0 is SCRUBBING and alone
in the scrub queue, with origin SWEEP; its burst 0 is in service, and the arbiter's pointer, having passed
the scrub engine, stands at P0. The refresh timer starts (log 21). Nothing else changes. While RSTn is not
asserted the model does nothing (log 5). -/
def Obligations.RstnReleaseStartsSweep : Prop :=
  ∀ (strap : Fin 4) (s : State),
    (s.rstAsserted = true → ResetHolds s →
      exec (.rstnRelease strap) s = .next
        { s with rstAsserted := false, frames := 1024 * 2 ^ strap.val,
                 uninitCount := 1024 * 2 ^ strap.val - 1,
                 dir := [(0, { Entry.reset with state := .scrubbing })],
                 scrubQueue := [⟨0, .sweep, none⟩], burst := 0,
                 memPort := .serving (.scrub ⟨0, 0⟩), arbiter := .port .P0,
                 refreshAt := s.now + 7 }) ∧
    (s.rstAsserted = false → exec (.rstnRelease strap) s = .next s)

/-- A port reset (R170 to R176, R51, R131, R138, R145, R160): the port unit takes its reset values and the
port holds the token no more. It holds no frame and waits on none. A frame it held PRIVATE is QUARANTINED,
empty and unpinned, with its other waiters in their order and no recall; where it is the port's only frame
(and none is deferred), each waiter and the token's holder get one QUARANTINED record, and no other port
anything. A frame it held SHARED, here without waiters, stays SHARED with the others or is FREE; one it held
POISONED stays so without it. Frames it neither held nor waited on keep all but their recall. No scrub
completion will be notified to it. Its request in service goes on, its answer to be discarded; the memory
port, the array, the scrub queue's frames, the arbiter's pointer, and of the other ports all but records and
counts, are untouched. The PRSTn pin alone moves while RSTn is asserted (log 23), and at the release of PRSTn
(R164). -/
def Obligations.PortResetDeparts : Prop :=
  (∀ (p : Port) (s : State), s.rstAsserted = false → Directory.wf s.dir → DirectorySound s →
    ∃ t, exec (.portReset p) s = .next t ∧
      t.unit p = PortUnit.reset true ∧
      t.token = (if s.token = some p then none else s.token) ∧
      (∀ f, (t.entry f).holders.get p = false ∧ waitsIn (t.entry f).queue p = false) ∧
      (∀ f, (s.entry f).state = .priv → (s.entry f).holders.get p = true →
        t.entry f =
          { state := .quarantined, holders := noPorts, pinned := false,
            queue := (s.entry f).queue.filter (fun w => w.port != p), recallField := .none }) ∧
      (∀ f, (s.entry f).state = .priv → (s.entry f).holders.get p = true → s.deferred = [] →
        (∀ g, g ≠ f → (s.entry g).holders.get p = false ∧ waitsIn (s.entry g).queue p = false) →
        waitsIn (s.entry f).queue p = false → ∀ q, q ≠ p →
        t.unit q =
          if s.token = some q ∨ waitsIn (s.entry f).queue q = true then
            postUnit (s.unit q) (.quarantined f p)
          else s.unit q) ∧
      (∀ f, (s.entry f).state = .shared → (s.entry f).holders.get p = true → (s.entry f).queue = [] →
        (s.entry f).recallField = .none →
        t.entry f =
          if (s.entry f).holders = onePort p then
            { s.entry f with state := .free, holders := noPorts, pinned := false }
          else { s.entry f with holders := (s.entry f).holders.set p false }) ∧
      (∀ f, (s.entry f).state = .poisoned → (s.entry f).holders.get p = true →
        (s.entry f).recallField = .none →
        t.entry f = { s.entry f with holders := (s.entry f).holders.set p false }) ∧
      (∀ f, (s.entry f).holders.get p = false → waitsIn (s.entry f).queue p = false →
        t.entry f = { s.entry f with recallField := (t.entry f).recallField }) ∧
      (∀ r d, s.memPort = .serving (.window r d) → r.port = p →
        t.memPort = .serving (.window r true)) ∧
      (s.inService p = false → t.memPort = s.memPort) ∧
      (∀ d ∈ t.scrubQueue, d.notify ≠ some p) ∧
      t.scrubQueue.map ScrubEntry.frame = s.scrubQueue.map ScrubEntry.frame ∧
      t.memory = s.memory ∧ t.arbiter = s.arbiter ∧
      (∀ q, q ≠ p → UnitDirectoryChange (s.unit q) (t.unit q))) ∧
  (∀ (p : Port) (s : State), s.rstAsserted = true →
    exec (.portReset p) s = .next (s.setUnit p { s.unit p with prst := true })) ∧
  (∀ (p : Port) (s : State),
    exec (.prstnRelease p) s = .next (s.setUnit p { s.unit p with prst := false }))

/-- ATTACH (R166): an OFFLINE port becomes ONLINE, with its number, F and the sweep-complete status in the
results, and nothing else changes; an ONLINE port is refused STATE. -/
def Obligations.AttachBringsPortOnline : Prop :=
  ∀ (p : Port) (s : State), s.busServed p = true →
    ((s.unit p).online = false → exec (.attach p) s =
      .next (answered (s.setUnit p { s.unit p with online := true }) p 0x01
        ⟨0, BitVec.ofNat 32 (portNumber p), pack [fLarge s.frames], pack [fFlag s.sweepComplete]⟩)) ∧
    ((s.unit p).online = true → exec (.attach p) s = .next (answered s p 0x01 ⟨13, 0, 0, 0⟩))

/-- DETACH (R167, R168): HOLDING, with the holding count, while the port holds frames, and nothing changes.
Otherwise the port becomes OFFLINE with its claims withdrawn, its token freed, its maps and queue empty and
context 0, keeping its arguments and interrupt enable; the results count what was disposed of. -/
def Obligations.DetachDeparts : Prop :=
  ∀ (p : Port) (s : State), Ready s p →
    (0 < (s.unit p).holding → exec (.detach p) s =
      .next (answered s p 0x02 ⟨12, pack [fLarge (s.unit p).holding], 0, 0⟩)) ∧
    ((s.unit p).holding = 0 → Directory.wf s.dir → ∃ t, exec (.detach p) s = .next t ∧
      t.unit p =
        { s.unit p with
          online := false, events := [], overrun := false, waiting := 0, map0 := [], map1 := [],
          context := .c0, command := 0x02, answer := some ⟨false, []⟩,
          results :=
            ⟨0, pack [fSmall (s.unit p).waiting, fFlag (decide (s.token = some p))],
              pack [fLarge ((s.unit p).map0.length + (s.unit p).map1.length)],
              pack [fSmall (s.unit p).events.length, fFlag (s.unit p).overrun]⟩ } ∧
      t.token = (if s.token = some p then none else s.token) ∧
      (∀ f, waitsIn (t.entry f).queue p = false) ∧
      (∀ f, waitsIn (s.entry f).queue p = false →
        t.entry f = { s.entry f with recallField := (t.entry f).recallField }) ∧
      (∀ d ∈ t.scrubQueue, d.notify ≠ some p) ∧ t.memory = s.memory ∧
      (∀ q, q ≠ p → UnitDirectoryChange (s.unit q) (t.unit q)))

/-! ### Claims -/

/-- PROBE_FRAME (R17, R18): the entry is read whole, in either lifecycle state, and nothing changes. RESULT2
is 0 for an empty queue; RESULT3 is 0 without a recall, names the place in the deferred list, or gives the
time left in units of 10 us rounded up (at least 1: log 24) and the to-release set. -/
def Obligations.ProbeFrameReadsEntry : Prop :=
  ∀ (p : Port) (f : Nat) (s : State), s.busServed p = true → s.arg p 0 = f → f < s.frames →
    ∃ w2 w3, exec (.probeFrame p) s =
        .next (answered s p 0x03
          ⟨0, pack [fState (s.entry f).state, fSet (s.entry f).holders, fFlag (s.entry f).pinned],
            w2, w3⟩) ∧
      ((s.entry f).queue = [] → w2 = 0) ∧
      (∀ h t, (s.entry f).queue = h :: t →
        w2 = pack [fSmall (t.length + 1), fFlag true, fPort h.port, fMode h.mode]) ∧
      ((s.entry f).recallField = .none → w3 = 0) ∧
      (∀ before d after, (s.entry f).recallField = .deferred → s.deferred = before ++ d :: after →
        d.frame = f → (∀ x ∈ before, x.frame ≠ f) →
        w3 = pack [(2, 2), fLarge 0, fSet noPorts, fSmall (before.length + 1)]) ∧
      (∀ i r, (s.entry f).recallField = .active i → s.recalls.get i = some r → s.now < r.deadline →
        w3 = pack [(2, 1), fLarge ((r.deadline - s.now + 9) / 10), fSet r.toRelease, fSmall 0])

/-- A claim answered OK at once (R24, R26, R28, R30, R31): granted on a FREE frame; joined to a SHARED one
without waiters; upgraded by the sole holder without waiters; downgraded by the PRIVATE holder; held already,
with nothing changed. RESULT1 to RESULT3 carry frame, mode, outcome, tag, position 0, promoted no, and the
waiting and free records. A downgrade lets a run of SHARED waiters in, each with a GRANT record, and the
recall is removed (an active one here with no frame deferred); for a PRIVATE head the recall in being goes on
unchanged. -/
def Obligations.ClaimTakenAtOnce : Prop :=
  ∀ (p : Port) (f : Nat) (m : Mode) (tag : BitVec 8) (s : State), Ready s p →
    s.arg p 0 = f → f < s.frames → s.arg p 1 = modeCode m → s.arg p 2 = tag.toNat →
    waitsIn (s.entry f).queue p = false → Directory.wf s.dir →
    let result := fun outcome : Nat =>
      (⟨0, pack [fFrame f, fMode m, (4, outcome)], pack [fSmall tag.toNat, fSmall 0, fFlag false],
        pack [fSmall (s.unit p).waiting, fSmall s.poolFree]⟩ : Words4)
    ((s.entry f).state = .free → exec (.claim p) s =
      .next (answered (s.putEntry f { s.entry f with holders := onePort p, state := heldState m })
        p 0x10 (result 1))) ∧
    ((s.entry f).state = .shared → m = .shared → (s.entry f).holders.get p = false →
      (s.entry f).queue = [] → exec (.claim p) s =
      .next (answered (s.putEntry f { s.entry f with holders := (s.entry f).holders.set p true })
        p 0x10 (result 2))) ∧
    ((s.entry f).state = .shared → m = .priv → (s.entry f).holders = onePort p →
      (s.entry f).queue = [] → exec (.claim p) s =
      .next (answered (s.putEntry f { s.entry f with state := .priv }) p 0x10 (result 3))) ∧
    ((s.entry f).state = .priv → m = .shared → (s.entry f).holders.get p = true →
      (s.entry f).queue = [] → exec (.claim p) s =
      .next (answered (s.putEntry f { s.entry f with state := .shared }) p 0x10 (result 4))) ∧
    (∀ h rest, (s.entry f).state = .priv → m = .shared → (s.entry f).holders = onePort p →
      (s.entry f).queue = h :: rest → h.mode = .priv → (s.entry f).recallField ≠ .none →
      exec (.claim p) s =
      .next (answered (s.putEntry f { s.entry f with state := .shared }) p 0x10 (result 4))) ∧
    ((s.entry f).state = .priv → m = .shared → (s.entry f).holders = onePort p →
      (s.entry f).queue ≠ [] → (∀ w ∈ (s.entry f).queue, w.mode = .shared) →
      ((s.entry f).queue.map WaitRec.port).Nodup →
      (s.entry f).recallField = .deferred ∨
        (∃ i, (s.entry f).recallField = .active i ∧ s.deferred = []) →
      ∃ t, exec (.claim p) s = .next t ∧
        t.entry f =
          { s.entry f with
            state := .shared, holders := (t.entry f).holders, queue := [], recallField := .none } ∧
        (∀ q, (t.entry f).holders.get q = (decide (q = p) || waitsIn (s.entry f).queue q)) ∧
        (∀ w ∈ (s.entry f).queue, t.unit w.port = postUnit
          { s.unit w.port with
            waiting := (s.unit w.port).waiting - 1, holding := (s.unit w.port).holding + 1 }
          (.grant f .shared w.tag false false false)) ∧
        t.unit p =
          { s.unit p with
            command := 0x10, answer := some ⟨false, []⟩,
            results :=
              ⟨0, pack [fFrame f, fMode .shared, (4, 4)], pack [fSmall tag.toNat, fSmall 0, fFlag false],
                pack [fSmall (s.unit p).waiting,
                  fSmall (s.poolFree + (s.entry f).queue.length)]⟩ } ∧
        t.poolFree = s.poolFree + (s.entry f).queue.length ∧
        (∀ i, t.recalls.get i =
          if (s.entry f).recallField = .active i then none else s.recalls.get i) ∧
        t.deferred =
          (if (s.entry f).recallField = .deferred then s.deferred.filter (fun d => d.frame != f)
           else s.deferred) ∧
        (∀ g, g ≠ f → t.entry g = s.entry g) ∧
        (∀ q, q ≠ p → waitsIn (s.entry f).queue q = false → t.unit q = s.unit q)) ∧
    ((s.entry f).state = heldState m → (s.entry f).holders.get p = true → exec (.claim p) s =
      .next (answered s p 0x10 (result 5)))

/-- A claim left waiting (R25, R27, R20, R21), behind others or the first on a SCRUBBING or QUARANTINED frame:
a record with the arrival count as its number joins the tail of the queue, the pool loses one, the arrival
count and the port's waiting count rise by one, and nothing else changes; the answer is PENDING with the
position. The claim of an UNINITIALIZED frame also promotes it while the scrub queue has room (R27, R134; here
with the engine ACTIVE), and with the scrub queue full waits all the same, promoted no. -/
def Obligations.ClaimJoinsWaitQueue : Prop :=
  ∀ (p : Port) (f : Nat) (m : Mode) (tag : BitVec 8) (s : State), Ready s p →
    s.arg p 0 = f → f < s.frames → s.arg p 1 = modeCode m → s.arg p 2 = tag.toNat →
    waitsIn (s.entry f).queue p = false → 0 < s.poolFree → (s.unit p).waiting < 8 →
    let joined : Entry :=
      { s.entry f with queue := (s.entry f).queue ++ [⟨p, m, tag, s.arrival⟩] }
    let taken : State :=
      { s.setUnit p { s.unit p with waiting := (s.unit p).waiting + 1 } with
        poolFree := s.poolFree - 1, arrival := s.arrival + 1 }
    let result := fun (held : Nat) (promoted : Bool) =>
      (⟨1, pack [fFrame f, (2, held), (4, 6)],
        pack [fSmall tag.toNat, fSmall ((s.entry f).queue.length + 1), fFlag promoted],
        pack [fSmall ((s.unit p).waiting + 1), fSmall (s.poolFree - 1)]⟩ : Words4)
    ((s.entry f).queue ≠ [] → (s.entry f).pinned = false → (s.entry f).holders.get p = false →
      (s.entry f).state = .priv ∨ (s.entry f).state = .shared ∨ (s.entry f).state = .scrubbing ∨
        (s.entry f).state = .quarantined →
      exec (.claim p) s = .next (answered (taken.putEntry f joined) p 0x10 (result 0 false))) ∧
    ((s.entry f).queue = [] → (s.entry f).holders.get p = false →
      (s.entry f).state = .scrubbing ∨ (s.entry f).state = .quarantined →
      exec (.claim p) s = .next (answered (taken.putEntry f joined) p 0x10 (result 0 false))) ∧
    ((s.entry f).state = .uninitialized → (s.entry f).holders.get p = false →
      16 ≤ s.scrubQueue.length →
      exec (.claim p) s = .next (answered (taken.putEntry f joined) p 0x10 (result 0 false))) ∧
    ((s.entry f).queue ≠ [] → (s.entry f).pinned = false → (s.entry f).holders.get p = true →
      (s.entry f).state = .shared → m = .priv →
      exec (.claim p) s = .next (answered (taken.putEntry f joined) p 0x10 (result 2 false))) ∧
    ((s.entry f).state = .uninitialized → (s.entry f).holders.get p = false →
      s.scrubQueue ≠ [] → s.scrubQueue.length < 16 → ∃ t, exec (.claim p) s = .next t ∧
      t.entry f = { joined with state := .scrubbing, pinned := false } ∧
      t.scrubQueue = s.scrubQueue ++ [⟨f, .promotion, none⟩] ∧
      t.uninitCount = s.uninitCount - 1 ∧
      (t.unit p).results = result 0 true ∧ (∀ g, g ≠ f → t.entry g = s.entry g) ∧
      t.memPort = s.memPort ∧ t.scrubRequest = s.scrubRequest ∧ t.memory = s.memory)

/-- A claim that becomes the head of a frame that others hold has a recall ensured for it (R35). With a record
free, the lowest-numbered one is taken (R54): requester, wanted mode, the other holders, a deadline of the
recall timeout in units of 10 us; each of them is sent a RECALL record (R55). With none free the frame
joins the deferred list behind every smaller sequence number and before every greater one (R56). -/
def Obligations.ClaimStartsRecall : Prop :=
  ∀ (p : Port) (f : Nat) (m : Mode) (tag : BitVec 8) (s : State), Ready s p →
    s.arg p 0 = f → f < s.frames → s.arg p 1 = modeCode m → s.arg p 2 = tag.toNat →
    0 < s.poolFree → (s.unit p).waiting < 8 →
    (s.entry f).queue = [] → (s.entry f).pinned = false → (s.entry f).recallField = .none →
    ((s.entry f).state = .priv ∧ (s.entry f).holders.get p = false) ∨
      ((s.entry f).state = .shared ∧ m = .priv ∧ (s.entry f).holders.set p false ≠ noPorts) →
    (∀ i : Fin 8, s.recalls.get i = none → (∀ j, j < i → s.recalls.get j ≠ none) →
      ∃ t, exec (.claim p) s = .next t ∧
        t.entry f = { s.entry f with queue := [⟨p, m, tag, s.arrival⟩], recallField := .active i } ∧
        t.recalls = s.recalls.set i
          (some ⟨f, p, m, (s.entry f).holders.set p false, s.now + s.recallTimeout * 10⟩) ∧
        (∀ q, q ≠ p → t.unit q =
          if (s.entry f).holders.get q then postUnit (s.unit q) (.recallNotice f p m s.recallTimeout)
          else s.unit q) ∧
        (∀ g, g ≠ f → t.entry g = s.entry g) ∧ t.deferred = s.deferred ∧ t.memory = s.memory ∧
        (t.unit p).results.w0 = 1) ∧
    (∀ older newer, (∀ i, s.recalls.get i ≠ none) → s.deferred = older ++ newer →
      (∀ d ∈ older, d.seq.toNat < s.arrival.toNat) → (∀ d ∈ newer, s.arrival.toNat < d.seq.toNat) →
      ∃ t, exec (.claim p) s = .next t ∧
        t.entry f = { s.entry f with queue := [⟨p, m, tag, s.arrival⟩], recallField := .deferred } ∧
        t.deferred = older ++ ⟨f, s.arrival⟩ :: newer ∧ t.recalls = s.recalls ∧
        (∀ q, q ≠ p → t.unit q = s.unit q) ∧ (∀ g, g ≠ f → t.entry g = s.entry g) ∧
        (t.unit p).results.w0 = 1)

/-- A claim refused (R23, R33): UNAVAILABLE on a POISONED frame, then DUPLICATE from a port that waits on it
already, then PINNED where a pinned frame would have to be taken from a holder, then BUSY with no wait
record free, then LIMIT from a port with 8. Nothing else changes. -/
def Obligations.ClaimRefused : Prop :=
  ∀ (p : Port) (f : Nat) (m : Mode) (tag : BitVec 8) (s : State), Ready s p →
    s.arg p 0 = f → f < s.frames → s.arg p 1 = modeCode m → s.arg p 2 = tag.toNat →
    let e := s.entry f
    let sole := e.holders = onePort p ∧ e.queue = []
    let waits :=
      (e.state = .priv ∧ e.holders.get p = false ∧ e.pinned = false) ∨
      (e.state = .shared ∧ m = .priv ∧ ¬ sole ∧ e.pinned = false) ∨
      (e.state = .shared ∧ m = .shared ∧ e.holders.get p = false ∧ e.queue ≠ []) ∨
      e.state = .uninitialized ∨ e.state = .scrubbing ∨ e.state = .quarantined
    (e.state = .poisoned → exec (.claim p) s = .next (answered s p 0x10 ⟨11, 0, 0, 0⟩)) ∧
    (e.state ≠ .poisoned → waitsIn e.queue p = true →
      exec (.claim p) s = .next (answered s p 0x10 ⟨8, 0, 0, 0⟩)) ∧
    (waitsIn e.queue p = false → e.pinned = true →
      (e.state = .priv ∧ e.holders.get p = false) ∨ (e.state = .shared ∧ m = .priv ∧ ¬ sole) →
      exec (.claim p) s = .next (answered s p 0x10 ⟨10, 0, 0, 0⟩)) ∧
    (waitsIn e.queue p = false → waits → s.poolFree = 0 →
      exec (.claim p) s = .next (answered s p 0x10 ⟨6, 0, 0, 0⟩)) ∧
    (waitsIn e.queue p = false → waits → s.poolFree ≠ 0 → 8 ≤ (s.unit p).waiting →
      exec (.claim p) s = .next (answered s p 0x10 ⟨7, 0, 0, 0⟩))

/-- CANCEL (R47, R48): STATE from a port that does not wait on the frame. A claim that is not the head leaves
the queue, its record returns to the pool, and nothing else changes. With the head its recall goes too, and a
record freed so is given to the oldest deferred frame that still needs a recall, with its RECALL records
(R58, R66); frames before it that need none leave the list. On a frame that waits to be scrubbed or freed,
nothing else happens. Where claims stand behind on a frame in use: a run of SHARED ones on a SHARED frame is
granted; a next one that other holders stand in the way of has a fresh recall started in the free record with
the lowest index (R54), or, with none free, is deferred behind every smaller sequence number and before every
greater one (R56). No record is queued for the removal itself. -/
def Obligations.CancelWithdrawsClaim : Prop :=
  ∀ (p : Port) (f : Nat) (s : State), Ready s p → s.arg p 0 = f → f < s.frames →
    let result := fun (w : WaitRec) (head : Bool) =>
      (⟨0, pack [fFrame f, fMode w.mode, fFlag head], BitVec.ofNat 32 w.tag.toNat,
        pack [fSmall ((s.unit p).waiting - 1)]⟩ : Words4)
    let withdrawn := fun queue : List WaitRec =>
      { (s.putEntry f { s.entry f with queue := queue, recallField := .none }).setUnit p
          { s.unit p with waiting := (s.unit p).waiting - 1 } with poolFree := s.poolFree + 1 }
    (waitsIn (s.entry f).queue p = false →
      exec (.cancel p) s = .next (answered s p 0x11 ⟨13, 0, 0, 0⟩)) ∧
    (∀ h before w after, (s.entry f).queue = h :: before ++ w :: after → w.port = p → h.port ≠ p →
      (∀ x ∈ before, x.port ≠ p) → (∀ x ∈ after, x.port ≠ p) →
      exec (.cancel p) s =
        .next (answered
          { (s.putEntry f { s.entry f with queue := h :: before ++ after }).setUnit p
              { s.unit p with waiting := (s.unit p).waiting - 1 } with poolFree := s.poolFree + 1 }
          p 0x11 (result w false))) ∧
    (∀ w rest, (s.entry f).queue = w :: rest → w.port = p → (∀ x ∈ rest, x.port ≠ p) →
      (s.entry f).recallField = .none →
      rest = [] ∨ (s.entry f).state = .uninitialized ∨ (s.entry f).state = .scrubbing ∨
        (s.entry f).state = .quarantined →
      exec (.cancel p) s = .next (answered (withdrawn rest) p 0x11 (result w true))) ∧
    (∀ w, (s.entry f).queue = [w] → w.port = p → (s.entry f).recallField = .deferred →
      ∃ t, exec (.cancel p) s = .next t ∧
        t.entry f = { s.entry f with queue := [], recallField := .none } ∧
        t.deferred = s.deferred.filter (fun d => d.frame != f) ∧ t.recalls = s.recalls ∧
        t.poolFree = s.poolFree + 1 ∧ (t.unit p).results = result w true ∧
        (∀ g, g ≠ f → t.entry g = s.entry g) ∧ (∀ q, q ≠ p → t.unit q = s.unit q)) ∧
    (∀ w i, (s.entry f).queue = [w] → w.port = p → (s.entry f).recallField = .active i →
      s.deferred = [] → ∃ t, exec (.cancel p) s = .next t ∧
        t.entry f = { s.entry f with queue := [], recallField := .none } ∧
        t.recalls = s.recalls.set i none ∧ t.poolFree = s.poolFree + 1 ∧
        (t.unit p).waiting = (s.unit p).waiting - 1 ∧ (t.unit p).results = result w true ∧
        (∀ g, g ≠ f → t.entry g = s.entry g) ∧ (∀ q, q ≠ p → t.unit q = s.unit q) ∧
        t.deferred = [] ∧ t.memory = s.memory) ∧
    (∀ w i dropped d kept h more, (s.entry f).queue = [w] → w.port = p →
      (s.entry f).recallField = .active i → s.deferred = dropped ++ d :: kept →
      (∀ x ∈ dropped, x.frame ≠ f ∧ needsRecall (s.entry x.frame) = false) → d.frame ≠ f →
      inUse (s.entry d.frame).state = true → (s.entry d.frame).queue = h :: more →
      (s.entry d.frame).holders.set h.port false ≠ noPorts →
      ∃ t, exec (.cancel p) s = .next t ∧
        t.entry f = { s.entry f with queue := [], recallField := .none } ∧
        t.entry d.frame = { s.entry d.frame with recallField := .active i } ∧
        t.recalls = s.recalls.set i
          (some ⟨d.frame, h.port, h.mode, (s.entry d.frame).holders.set h.port false,
            s.now + s.recallTimeout * 10⟩) ∧
        t.deferred = kept ∧
        (∀ x ∈ dropped, t.entry x.frame = { s.entry x.frame with recallField := .none }) ∧
        (∀ g, g ≠ f → g ≠ d.frame → (∀ x ∈ dropped, g ≠ x.frame) → t.entry g = s.entry g) ∧
        (∀ q, q ≠ p → t.unit q =
          if ((s.entry d.frame).holders.set h.port false).get q = true then
            postUnit (s.unit q) (.recallNotice d.frame h.port h.mode s.recallTimeout)
          else s.unit q) ∧
        (t.unit p).results = result w true ∧ t.poolFree = s.poolFree + 1) ∧
    (∀ w run, (s.entry f).queue = w :: run → w.port = p → run ≠ [] →
      (∀ x ∈ run, x.mode = .shared ∧ (s.entry f).holders.get x.port = false) →
      ((s.entry f).queue.map WaitRec.port).Nodup → (s.entry f).state = .shared →
      (s.entry f).recallField = .deferred ∨
        (∃ i, (s.entry f).recallField = .active i ∧ s.deferred = []) →
      ∃ t, exec (.cancel p) s = .next t ∧
        t.entry f =
          { s.entry f with holders := (t.entry f).holders, queue := [], recallField := .none } ∧
        (∀ q, (t.entry f).holders.get q = ((s.entry f).holders.get q || waitsIn run q)) ∧
        (∀ x ∈ run, t.unit x.port = postUnit
          { s.unit x.port with
            waiting := (s.unit x.port).waiting - 1, holding := (s.unit x.port).holding + 1 }
          (.grant f .shared x.tag false false false)) ∧
        (∀ i, t.recalls.get i =
          if (s.entry f).recallField = .active i then none else s.recalls.get i) ∧
        t.poolFree = s.poolFree + 1 + run.length ∧ (t.unit p).results = result w true ∧
        (∀ g, g ≠ f → t.entry g = s.entry g) ∧
        (∀ q, q ≠ p → waitsIn run q = false → t.unit q = s.unit q)) ∧
    (∀ w x rest, (s.entry f).queue = w :: x :: rest → w.port = p →
      (∀ y ∈ x :: rest, y.port ≠ p) →
      (s.entry f).state = .priv ∨ ((s.entry f).state = .shared ∧ x.mode = .priv) →
      (s.entry f).holders.set x.port false ≠ noPorts →
      (∀ i j, (s.entry f).recallField = .active i → s.deferred = [] →
        (j = i ∨ s.recalls.get j = none) → (∀ k, k < j → k ≠ i ∧ s.recalls.get k ≠ none) →
        ∃ t, exec (.cancel p) s = .next t ∧
          t.entry f = { s.entry f with queue := x :: rest, recallField := .active j } ∧
          t.recalls = (s.recalls.set i none).set j
            (some ⟨f, x.port, x.mode, (s.entry f).holders.set x.port false,
              s.now + s.recallTimeout * 10⟩) ∧
          t.deferred = [] ∧ t.poolFree = s.poolFree + 1 ∧ (t.unit p).results = result w true ∧
          (∀ g, g ≠ f → t.entry g = s.entry g) ∧
          (∀ q, q ≠ p → t.unit q =
            if ((s.entry f).holders.set x.port false).get q = true then
              postUnit (s.unit q) (.recallNotice f x.port x.mode s.recallTimeout)
            else s.unit q)) ∧
      (∀ older newer, (s.entry f).recallField = .deferred → (∀ i, s.recalls.get i ≠ none) →
        s.deferred.filter (fun d => d.frame != f) = older ++ newer →
        (∀ y ∈ older, y.seq.toNat < x.seq.toNat) → (∀ y ∈ newer, x.seq.toNat < y.seq.toNat) →
        ∃ t, exec (.cancel p) s = .next t ∧
          t.entry f = { s.entry f with queue := x :: rest, recallField := .deferred } ∧
          t.deferred = older ++ ⟨f, x.seq⟩ :: newer ∧ t.recalls = s.recalls ∧
          (t.unit p).results = result w true ∧
          (∀ g, g ≠ f → t.entry g = s.entry g) ∧ (∀ q, q ≠ p → t.unit q = s.unit q)) ∧
      (∀ i d older newer h more, (s.entry f).recallField = .active i →
        (∀ k, k ≠ i → s.recalls.get k ≠ none) → s.deferred = d :: (older ++ newer) →
        d.frame ≠ f → inUse (s.entry d.frame).state = true → (s.entry d.frame).queue = h :: more →
        (s.entry d.frame).holders.set h.port false ≠ noPorts →
        (∀ y ∈ older, y.seq.toNat < x.seq.toNat) → (∀ y ∈ newer, x.seq.toNat < y.seq.toNat) →
        ∃ t, exec (.cancel p) s = .next t ∧
          t.entry f = { s.entry f with queue := x :: rest, recallField := .deferred } ∧
          t.entry d.frame = { s.entry d.frame with recallField := .active i } ∧
          t.recalls = s.recalls.set i
            (some ⟨d.frame, h.port, h.mode, (s.entry d.frame).holders.set h.port false,
              s.now + s.recallTimeout * 10⟩) ∧
          t.deferred = older ++ ⟨f, x.seq⟩ :: newer ∧ (t.unit p).results = result w true ∧
          (∀ g, g ≠ f → g ≠ d.frame → t.entry g = s.entry g) ∧
          (∀ q, q ≠ p → t.unit q =
            if ((s.entry d.frame).holders.set h.port false).get q = true then
              postUnit (s.unit q) (.recallNotice d.frame h.port h.mode s.recallTimeout)
            else s.unit q)))

/-- RELEASE without clear, or with a clear that is not applied because other ports hold the SHARED frame too or
the frame is POISONED (R39 to R41, R43, R44, R46): NOT_HELD from a port that does not hold the frame. With
no waiter and no recall, the last holder of a PRIVATE or SHARED frame leaves it FREE and unpinned, a holder
of a SHARED frame with others leaves it SHARED, and a holder of a POISONED frame leaves it POISONED. Only the
entry, the port's holding count and its answer change. -/
def Obligations.ReleaseGivesUpFrame : Prop :=
  ∀ (p : Port) (f : Nat) (s : State), Ready s p → s.arg p 0 = f → f < s.frames →
    s.arg p 1 = 0 ∨
      (s.arg p 1 = 1 ∧ ¬ (inUse (s.entry f).state = true ∧ (s.entry f).holders = onePort p)) →
    ((s.entry f).holders.get p = false →
      exec (.release p) s = .next (answered s p 0x12 ⟨9, 0, 0, 0⟩)) ∧
    ((s.entry f).holders.get p = true → (s.entry f).queue = [] → (s.entry f).recallField = .none →
      inUse (s.entry f).state = true ∨ (s.entry f).state = .poisoned →
      ∃ t, exec (.release p) s = .next t ∧
        t.entry f =
          (if inUse (s.entry f).state = true ∧ (s.entry f).holders = onePort p then
            { s.entry f with holders := noPorts, state := .free, pinned := false }
          else { s.entry f with holders := (s.entry f).holders.set p false }) ∧
        t.unit p =
          { s.unit p with
            holding := (s.unit p).holding - 1, command := 0x12, answer := some ⟨false, []⟩,
            results :=
              ⟨0, pack [fFrame f, fState (t.entry f).state, fFlag false],
                pack [fSet ((s.entry f).holders.set p false)], 0⟩ } ∧
        (∀ g, g ≠ f → t.entry g = s.entry g) ∧ (∀ q, q ≠ p → t.unit q = s.unit q) ∧
        t = { s with dir := t.dir, ports := t.ports })

/-- A release that answers a recall (R36, R37, R41, R46, R59, R66): the PRIVATE holder releases a frame on
which one port waits. The frame passes to the waiter in the mode it asked for; its record returns to the
pool, the recall record is freed, and a GRANT record with the forced and upgraded flags clear is queued. The
result says that the recall ended. And a release that leaves the head's own port the sole SHARED holder: the
head is upgraded, with the upgraded flag (R34 step 4, R43). -/
def Obligations.ReleaseServesWaiter : Prop :=
  (∀ (p : Port) (f : Nat) (w : WaitRec) (i : Fin 8) (r : RecallRec) (s : State), Ready s p →
    s.arg p 0 = f → f < s.frames → s.arg p 1 = 0 →
    (s.entry f).state = .priv → (s.entry f).holders = onePort p → (s.entry f).queue = [w] →
    w.port ≠ p → (s.entry f).recallField = .active i → s.recalls.get i = some r →
    r.toRelease = onePort p → s.deferred = [] →
    ∃ t, exec (.release p) s = .next t ∧
      t.entry f =
        { state := heldState w.mode, holders := onePort w.port, pinned := false, queue := [],
          recallField := .none } ∧
      t.recalls = s.recalls.set i none ∧ t.deferred = [] ∧ t.poolFree = s.poolFree + 1 ∧
      t.unit w.port = postUnit
        { s.unit w.port with
          waiting := (s.unit w.port).waiting - 1, holding := (s.unit w.port).holding + 1 }
        (.grant f w.mode w.tag false false false) ∧
      t.unit p =
        { s.unit p with
          holding := (s.unit p).holding - 1, command := 0x12, answer := some ⟨false, []⟩,
          results :=
            ⟨0, pack [fFrame f, fState (heldState w.mode), fFlag false], pack [fSet (onePort w.port)],
              1⟩ } ∧
      (∀ g, g ≠ f → t.entry g = s.entry g) ∧
      (∀ q, q ≠ p → q ≠ w.port → t.unit q = s.unit q) ∧ t.memory = s.memory) ∧
  (∀ (p : Port) (f : Nat) (w : WaitRec) (i : Fin 8) (r : RecallRec) (s : State), Ready s p →
    s.arg p 0 = f → f < s.frames → s.arg p 1 = 0 →
    (s.entry f).state = .shared → (s.entry f).holders = (onePort p).set w.port true →
    (s.entry f).queue = [w] → w.mode = .priv → w.port ≠ p →
    (s.entry f).recallField = .active i → s.recalls.get i = some r →
    r.toRelease = onePort p → s.deferred = [] →
    ∃ t, exec (.release p) s = .next t ∧
      t.entry f =
        { s.entry f with state := .priv, holders := onePort w.port, queue := [], recallField := .none } ∧
      t.recalls = s.recalls.set i none ∧ t.deferred = [] ∧ t.poolFree = s.poolFree + 1 ∧
      t.unit w.port = postUnit
        { s.unit w.port with waiting := (s.unit w.port).waiting - 1 }
        (.grant f .priv w.tag false false true) ∧
      (t.unit p).results =
        ⟨0, pack [fFrame f, fState .priv, fFlag false], pack [fSet (onePort w.port)], 1⟩ ∧
      (∀ g, g ≠ f → t.entry g = s.entry g) ∧
      (∀ q, q ≠ p → q ≠ w.port → t.unit q = s.unit q) ∧ t.memory = s.memory)

/-- RELEASE with clear by the last holder (R39, R42, R124): BUSY while the scrub queue holds 16 frames, with
nothing changed; otherwise the frame is SCRUBBING at the tail of the scrub queue, its waiters kept in their
order, and the result says that the clear was applied. Its recall ends: an active one, of which the port was
the last to be asked, with its record freed and recall ended yes (here with no frame deferred), a deferred
one with its place in the list given up and recall ended no. An IDLE engine posts burst 0 (here while the
memory port is busy). -/
def Obligations.ReleaseWithClear : Prop :=
  ∀ (p : Port) (f : Nat) (s : State), Ready s p → s.arg p 0 = f → f < s.frames → s.arg p 1 = 1 →
    inUse (s.entry f).state = true → (s.entry f).holders = onePort p →
    (16 ≤ s.scrubQueue.length → exec (.release p) s = .next (answered s p 0x12 ⟨6, 0, 0, 0⟩)) ∧
    (∀ ended : Bool, s.scrubQueue.length < 16 → s.memPort ≠ .idle →
      ((s.entry f).recallField = .none ∨ (s.entry f).recallField = .deferred) ∧ ended = false ∨
        (∃ i r, (s.entry f).recallField = .active i ∧ s.recalls.get i = some r ∧
          r.toRelease = onePort p ∧ s.deferred = []) ∧ ended = true →
      ∃ t, exec (.release p) s = .next t ∧
        t.entry f =
          { s.entry f with holders := noPorts, state := .scrubbing, pinned := false,
                           recallField := .none } ∧
        (∀ i, t.recalls.get i =
          if (s.entry f).recallField = .active i then none else s.recalls.get i) ∧
        t.deferred =
          (if (s.entry f).recallField = .deferred then s.deferred.filter (fun d => d.frame != f)
           else s.deferred) ∧
        t.scrubQueue = s.scrubQueue ++ [⟨f, .release, none⟩] ∧
        (s.scrubQueue = [] → t.burst = 0 ∧ t.scrubRequest = some ⟨f, 0⟩) ∧
        (s.scrubQueue ≠ [] → t.burst = s.burst ∧ t.scrubRequest = s.scrubRequest) ∧
        t.unit p =
          { s.unit p with
            holding := (s.unit p).holding - 1, command := 0x12, answer := some ⟨false, []⟩,
            results := ⟨0, pack [fFrame f, (4, 4), fFlag true], 0, pack [fFlag ended]⟩ } ∧
        (∀ g, g ≠ f → t.entry g = s.entry g) ∧ (∀ q, q ≠ p → t.unit q = s.unit q) ∧
        t.memPort = s.memPort ∧ t.memory = s.memory)

/-! ### Maps -/

/-- SELECT_CONTEXT (R77), MAP_CLEAR (R81) and MAP_CLEAR_ALL (R82): the port's active context, one entry, or
every entry of one context, with the values before in the results; only the port's unit changes. -/
def Obligations.MapClearAndSelect : Prop :=
  ∀ (p : Port) (c : Context) (s : State), Ready s p → s.arg p 0 = contextNumber c →
    (exec (.selectContext p) s =
      .next (answered (s.setUnit p { s.unit p with context := c }) p 0x20
        ⟨0, pack [fContext (s.unit p).context, fContext c], 0, 0⟩)) ∧
    (∃ t, exec (.mapClearAll p) s = .next t ∧ (∀ page, t.mapEntry p c page = none) ∧
      (∀ d page, d ≠ c → t.mapEntry p d page = s.mapEntry p d page) ∧
      t = answered (s.setUnit p { s.unit p with map0 := (t.unit p).map0, map1 := (t.unit p).map1 })
        p 0x23 ⟨0, pack [fContext c], pack [fLarge ((s.unit p).mapOf c).length], 0⟩) ∧
    (∀ page, s.arg p 1 = page → page < 512 → ∃ t, exec (.mapClear p) s = .next t ∧
      t.mapEntry p c page = none ∧
      (∀ d g, d ≠ c ∨ g ≠ page → t.mapEntry p d g = s.mapEntry p d g) ∧
      t = answered (s.setUnit p { s.unit p with map0 := (t.unit p).map0, map1 := (t.unit p).map1 })
        p 0x22 ⟨0, pack [fContext c, fPage page],
          (match s.mapEntry p c page with
           | none => 0
           | some m => pack [fFlag true, fFrame m.frame, fFlag m.write]), 0⟩)

/-- MAP_SET (R78, R79): UNAVAILABLE for a POISONED frame, NOT_HELD for one the port does not hold, STATE for a
read-write entry of a frame not held PRIVATE; otherwise the entry is written, with the old entry and the
held mode in the results, and no other entry changes. -/
def Obligations.MapSetWritesEntry : Prop :=
  ∀ (p : Port) (c : Context) (page f : Nat) (write : Bool) (s : State), Ready s p →
    s.arg p 0 = contextNumber c → s.arg p 1 = page → page < 512 → s.arg p 2 = f → f < s.frames →
    s.arg p 3 = write.toNat →
    ((s.entry f).state = .poisoned →
      exec (.mapSet p) s = .next (answered s p 0x21 ⟨11, 0, 0, 0⟩)) ∧
    ((s.entry f).state ≠ .poisoned → (s.entry f).holders.get p = false →
      exec (.mapSet p) s = .next (answered s p 0x21 ⟨9, 0, 0, 0⟩)) ∧
    ((s.entry f).state = .shared → (s.entry f).holders.get p = true → write = true →
      exec (.mapSet p) s = .next (answered s p 0x21 ⟨13, 0, 0, 0⟩)) ∧
    ((s.entry f).holders.get p = true →
      (s.entry f).state = .priv ∨ ((s.entry f).state = .shared ∧ write = false) →
      ∃ t, exec (.mapSet p) s = .next t ∧ t.mapEntry p c page = some ⟨f, write⟩ ∧
        (∀ d g, d ≠ c ∨ g ≠ page → t.mapEntry p d g = s.mapEntry p d g) ∧
        t = answered (s.setUnit p { s.unit p with map0 := (t.unit p).map0, map1 := (t.unit p).map1 })
          p 0x21 ⟨0, pack [fContext c, fPage page, fFrame f, fFlag write],
            (match s.mapEntry p c page with
             | none => 0
             | some m => pack [fFlag true, fFrame m.frame, fFlag m.write]),
            if (s.entry f).state = .priv then 1 else 2⟩)

/-- PROBE_PAGE (R83, R84): the entry, the outcome that a read and a write through it would meet now, the
verdict (0 none, 1 read only, 2 read and write), and the frame's state with the mode the port holds it in.
That mode reads 0 for a POISONED frame still held (R194, log 19). Nothing changes but the answer. -/
def Obligations.ProbePageVerdict : Prop :=
  ∀ (p : Port) (c : Context) (page : Nat) (s : State), Ready s p → s.arg p 0 = contextNumber c →
    s.arg p 1 = page → page < 512 →
    (s.mapEntry p c page = none → exec (.probePage p) s =
      .next (answered s p 0x24 ⟨0, 0, pack [(2, 0), (4, 1), (4, 1)], 0⟩)) ∧
    (∀ m, s.mapEntry p c page = some m →
      let e := s.entry m.frame
      let read := if e.state = .poisoned then 6 else if e.holders.get p = false then 4 else 0
      let write :=
        if m.write = false then 2 else if e.state = .poisoned then 6
        else if e.holders.get p = false then 4 else if e.state ≠ .priv then 5 else 0
      let verdict := if read ≠ 0 then 0 else if write ≠ 0 then 1 else 2
      let held :=
        if e.holders.get p = false then 0 else if e.state = .priv then 1
        else if e.state = .shared then 2 else 0
      exec (.probePage p) s =
        .next (answered s p 0x24
          ⟨0, pack [fFlag true, fFrame m.frame, fFlag m.write],
            pack [(2, verdict), (4, read), (4, write)], pack [fState e.state, (2, held)]⟩))

/-! ### The directory authority -/

/-- The token and the lease. ACQUIRE_AUTHORITY takes a free token or renews the holder's, and returns the
acquisition summary (R141, R142); it is refused BUSY while another port holds it. RENEW_AUTHORITY renews
(R143), RELEASE_AUTHORITY frees (R145). When the time base reaches the lease deadline the token is freed and
AUTHORITY_LAPSED queued to its holder (R144); that before it, and with the token free, the event does nothing
is the model's choice (log 5). -/
def Obligations.TokenCommandsAndLease : Prop :=
  (∀ (p : Port) (s : State) (qf pf : Nat) (qp pp : Bool), Ready s p →
    (if qp then qf < s.frames ∧ (s.entry qf).state = .quarantined ∧
        ∀ g < qf, (s.entry g).state ≠ .quarantined
      else qf = 0 ∧ ∀ g < s.frames, (s.entry g).state ≠ .quarantined) →
    (if pp then pf < s.frames ∧ (s.entry pf).state = .poisoned ∧
        ∀ g < pf, (s.entry g).state ≠ .poisoned
      else pf = 0 ∧ ∀ g < s.frames, (s.entry g).state ≠ .poisoned) →
    s.token = none ∨ s.token = some p →
    exec (.acquireAuthority p) s =
      .next (renewed (answered { s with token := some p } p 0x30
        ⟨0, pack [(4, if s.token = none then 1 else 2), fLarge s.leaseParam],
          pack [fLarge s.quarantinedCount, fLarge s.poisonedCount],
          pack [fFlag s.sweepComplete, fFrame qf, fFlag qp, fFrame pf, fFlag pp]⟩))) ∧
  (∀ (p q : Port) (s : State), Ready s p → s.token = some q → q ≠ p →
    exec (.acquireAuthority p) s = .next (answered s p 0x30 ⟨6, 0, 0, 0⟩)) ∧
  (∀ (p : Port) (s : State), ReadyWithToken s p →
    exec (.renewAuthority p) s =
      .next (renewed (answered s p 0x31 ⟨0, pack [fLarge s.leaseParam], 0, 0⟩)) ∧
    exec (.releaseAuthority p) s =
      .next (answered { s with token := none } p 0x32 ⟨0, 0, 0, 0⟩)) ∧
  (∀ (p : Port) (s : State), s.token = some p → s.leaseDeadline ≤ s.now →
    exec .authorityLeaseExpiry s =
      .next (State.setUnit { s with token := none } p (postUnit (s.unit p) .authorityLapsed))) ∧
  (∀ s : State, s.token = none ∨ s.now < s.leaseDeadline → exec .authorityLeaseExpiry s = .next s)

/-- ASSIGN (R149): OFFLINE for a port that is, STATE for a frame that is not FREE; otherwise the named port
holds the frame, with a GRANT record of tag 0 and the assigned flag. Each answer renews the lease. -/
def Obligations.AssignGivesFrame : Prop :=
  ∀ (p q : Port) (f : Nat) (m : Mode) (s : State), ReadyWithToken s p → s.arg p 0 = f →
    f < s.frames → s.arg p 1 = portNumber q → s.arg p 2 = modeCode m →
    ((s.unit q).online = false →
      exec (.assign p) s = .next (renewed (answered s p 0x40 ⟨3, 0, 0, 0⟩))) ∧
    ((s.unit q).online = true → (s.entry f).state ≠ .free →
      exec (.assign p) s = .next (renewed (answered s p 0x40 ⟨13, 0, 0, 0⟩))) ∧
    ((s.unit q).online = true → (s.entry f).state = .free → (s.entry f).queue = [] →
      exec (.assign p) s =
        .next (renewed (answered
          ((s.putEntry f { s.entry f with holders := onePort q, state := heldState m }).post q
            (.grant f m 0 false true false))
          p 0x40 ⟨0, pack [fFrame f, fPort q, fMode m], 0, 0⟩)))

/-- FORCE_RELEASE (R151, R152, R63): NOT_HELD for a port that does not hold the frame; otherwise that port
leaves it with a REVOKED record, cause AUTHORITY. With no waiter and no recall the last holder leaves it
FREE and unpinned, a SHARED frame stays with the others, a POISONED frame stays POISONED. -/
def Obligations.ForceReleaseRevokes : Prop :=
  ∀ (p q : Port) (f : Nat) (s : State), ReadyWithToken s p → s.arg p 0 = f → f < s.frames →
    s.arg p 1 = portNumber q →
    ((s.entry f).holders.get q = false →
      exec (.forceRelease p) s = .next (renewed (answered s p 0x41 ⟨9, 0, 0, 0⟩))) ∧
    ((s.entry f).holders.get q = true → (s.entry f).queue = [] → (s.entry f).recallField = .none →
      inUse (s.entry f).state = true ∨ (s.entry f).state = .poisoned →
      ∃ t u, exec (.forceRelease p) s = .next t ∧
        u = State.setUnit s q
          (postUnit { s.unit q with holding := (s.unit q).holding - 1 } (.revoked f .authority)) ∧
        t.entry f =
          (if inUse (s.entry f).state = true ∧ (s.entry f).holders = onePort q then
            { s.entry f with holders := noPorts, state := .free, pinned := false }
          else { s.entry f with holders := (s.entry f).holders.set q false }) ∧
        (∀ g, g ≠ f → t.entry g = s.entry g) ∧
        t = renewed (answered { u with dir := t.dir } p 0x41
          ⟨0, pack [fFrame f, fPort q, fState (t.entry f).state],
            pack [fSet ((s.entry f).holders.set q false)], 0⟩))

/-- PIN (R153): STATE for a frame not in use, BUSY for one with waiters, otherwise the flag is set. UNPIN
(R154): the flag is cleared whatever the state. Both report the flag as it was, and renew the lease. -/
def Obligations.PinAndUnpin : Prop :=
  ∀ (p : Port) (f : Nat) (s : State), ReadyWithToken s p → s.arg p 0 = f → f < s.frames →
    (inUse (s.entry f).state = false →
      exec (.pin p) s = .next (renewed (answered s p 0x42 ⟨13, 0, 0, 0⟩))) ∧
    (inUse (s.entry f).state = true → (s.entry f).queue ≠ [] →
      exec (.pin p) s = .next (renewed (answered s p 0x42 ⟨6, 0, 0, 0⟩))) ∧
    (inUse (s.entry f).state = true → (s.entry f).queue = [] →
      exec (.pin p) s =
        .next (renewed (answered (s.putEntry f { s.entry f with pinned := true }) p 0x42
          ⟨0, pack [fFrame f, fState (s.entry f).state, fFlag (s.entry f).pinned],
            pack [fSet (s.entry f).holders], 0⟩))) ∧
    exec (.unpin p) s =
      .next (renewed (answered (s.putEntry f { s.entry f with pinned := false }) p 0x43
        ⟨0, pack [fFrame f, fState (s.entry f).state, fFlag (s.entry f).pinned], 0, 0⟩))

/-- SCRUB (R155, R156, R124, R63): STATE unless the frame is FREE, QUARANTINED or POISONED, then BUSY with the
scrub queue full; otherwise its holders are removed with a REVOKED record each, cause SCRUB, and it is
SCRUBBING at the tail of the scrub queue with its waiters kept and the issuer to be notified (here with the
engine ACTIVE). -/
def Obligations.ScrubQueuesFrame : Prop :=
  ∀ (p : Port) (f : Nat) (s : State), ReadyWithToken s p → s.arg p 0 = f → f < s.frames →
    ((s.entry f).state ≠ .free → (s.entry f).state ≠ .quarantined → (s.entry f).state ≠ .poisoned →
      exec (.scrub p) s = .next (renewed (answered s p 0x44 ⟨13, 0, 0, 0⟩))) ∧
    ((s.entry f).state = .free ∨ (s.entry f).state = .quarantined ∨ (s.entry f).state = .poisoned →
      16 ≤ s.scrubQueue.length →
      exec (.scrub p) s = .next (renewed (answered s p 0x44 ⟨6, 0, 0, 0⟩))) ∧
    ((s.entry f).state = .free ∨ (s.entry f).state = .quarantined ∨ (s.entry f).state = .poisoned →
      s.scrubQueue.length < 16 → s.scrubQueue ≠ [] → ∃ t, exec (.scrub p) s = .next t ∧
        t.entry f =
          { s.entry f with holders := noPorts, state := .scrubbing, pinned := false } ∧
        t.scrubQueue = s.scrubQueue ++ [⟨f, .command, some p⟩] ∧
        (t.unit p).results =
          ⟨0, pack [fFrame f, fState (s.entry f).state],
            pack [fSmall (s.scrubQueue.length + 1), fSet (s.entry f).holders],
            pack [fSmall (s.entry f).queue.length]⟩ ∧
        (∀ q, q ≠ p → (s.entry f).holders.get q = true →
          t.unit q = postUnit { s.unit q with holding := (s.unit q).holding - 1 } (.revoked f .scrub)) ∧
        (∀ q, q ≠ p → (s.entry f).holders.get q = false → t.unit q = s.unit q) ∧
        (∀ g, g ≠ f → t.entry g = s.entry g) ∧ t.token = s.token ∧
        t.leaseDeadline = s.now + s.leaseParam * 1000 ∧ t.memPort = s.memPort ∧
        t.scrubRequest = s.scrubRequest ∧ t.memory = s.memory)

/-- UNQUARANTINE (R158): STATE unless the frame is QUARANTINED; otherwise it becomes FREE, and advancement
serves its waiters (R34 to R37): one alone in its mode; a run of SHARED waiters all together, each with a
GRANT record; a PRIVATE waiter alone, and where another stands behind it a recall of the new holder at once,
in the free record with the lowest index, its GRANT record followed by a RECALL record. -/
def Obligations.UnquarantineFreesFrame : Prop :=
  ∀ (p : Port) (f : Nat) (s : State), ReadyWithToken s p → s.arg p 0 = f → f < s.frames →
    ((s.entry f).state ≠ .quarantined →
      exec (.unquarantine p) s = .next (renewed (answered s p 0x45 ⟨13, 0, 0, 0⟩))) ∧
    ((s.entry f).state = .quarantined → (s.entry f).queue = [] →
      exec (.unquarantine p) s =
        .next (renewed (answered (s.putEntry f { s.entry f with state := .free }) p 0x45
          ⟨0, pack [fFrame f, (4, 1)], pack [fSet (s.entry f).holders], 0⟩))) ∧
    (∀ w, (s.entry f).state = .quarantined → (s.entry f).queue = [w] →
      (s.entry f).holders = noPorts → (s.entry f).recallField = .none →
      ∃ t, exec (.unquarantine p) s = .next t ∧
        t.entry f =
          { s.entry f with state := heldState w.mode, holders := onePort w.port, queue := [] } ∧
        (w.port ≠ p → t.unit w.port = postUnit
          { s.unit w.port with
            waiting := (s.unit w.port).waiting - 1, holding := (s.unit w.port).holding + 1 }
          (.grant f w.mode w.tag false false false)) ∧
        (t.unit p).results =
          ⟨0, pack [fFrame f, fState (heldState w.mode)], pack [fSet (onePort w.port)], 0⟩ ∧
        t.quarantinedCount = s.quarantinedCount - 1 ∧ t.poolFree = s.poolFree + 1 ∧
        (∀ g, g ≠ f → t.entry g = s.entry g) ∧
        (∀ q, q ≠ p → q ≠ w.port → t.unit q = s.unit q) ∧ t.memory = s.memory) ∧
    ((s.entry f).state = .quarantined → (s.entry f).queue ≠ [] →
      (∀ w ∈ (s.entry f).queue, w.mode = .shared) → ((s.entry f).queue.map WaitRec.port).Nodup →
      (s.entry f).holders = noPorts → (s.entry f).recallField = .none →
      ∃ t, exec (.unquarantine p) s = .next t ∧
        t.entry f =
          { s.entry f with state := .shared, holders := (t.entry f).holders, queue := [] } ∧
        (∀ q, (t.entry f).holders.get q = waitsIn (s.entry f).queue q) ∧
        (∀ w ∈ (s.entry f).queue, w.port ≠ p → t.unit w.port = postUnit
          { s.unit w.port with
            waiting := (s.unit w.port).waiting - 1, holding := (s.unit w.port).holding + 1 }
          (.grant f .shared w.tag false false false)) ∧
        (t.unit p).results = ⟨0, pack [fFrame f, (4, 3)], pack [fSet (t.entry f).holders], 0⟩ ∧
        t.poolFree = s.poolFree + (s.entry f).queue.length ∧ t.recalls = s.recalls ∧
        (∀ g, g ≠ f → t.entry g = s.entry g) ∧
        (∀ q, q ≠ p → waitsIn (s.entry f).queue q = false → t.unit q = s.unit q)) ∧
    (∀ w x rest, ∀ i : Fin 8, (s.entry f).state = .quarantined → (s.entry f).queue = w :: x :: rest →
      w.mode = .priv → x.port ≠ w.port → (s.entry f).holders = noPorts →
      (s.entry f).recallField = .none → s.recalls.get i = none →
      (∀ j, j < i → s.recalls.get j ≠ none) →
      ∃ t, exec (.unquarantine p) s = .next t ∧
        t.entry f =
          { s.entry f with
            state := .priv, holders := onePort w.port, queue := x :: rest, recallField := .active i } ∧
        t.recalls = s.recalls.set i
          (some ⟨f, x.port, x.mode, onePort w.port, s.now + s.recallTimeout * 10⟩) ∧
        (w.port ≠ p → t.unit w.port = postUnit
          (postUnit
            { s.unit w.port with
              waiting := (s.unit w.port).waiting - 1, holding := (s.unit w.port).holding + 1 }
            (.grant f .priv w.tag false false false))
          (.recallNotice f x.port x.mode s.recallTimeout)) ∧
        (t.unit p).results =
          ⟨0, pack [fFrame f, (4, 2)], pack [fSet (onePort w.port)], pack [fSmall (rest.length + 1)]⟩ ∧
        t.poolFree = s.poolFree + 1 ∧ t.deferred = s.deferred ∧
        (∀ g, g ≠ f → t.entry g = s.entry g) ∧
        (∀ q, q ≠ p → q ≠ w.port → t.unit q = s.unit q))

/-- MAP_SET_FOR and MAP_CLEAR_FOR (R159, R78, R85): OFFLINE for a named port that is; then for MAP_SET_FOR
UNAVAILABLE for a POISONED frame, NOT_HELD for one the named port does not hold, STATE for a read-write entry
of a frame it does not hold PRIVATE; otherwise the named port's entry is written or made not valid, and no
other entry changes. -/
def Obligations.MapForAnotherPort : Prop :=
  ∀ (p q : Port) (c : Context) (page : Nat) (s : State), ReadyWithToken s p →
    s.arg p 0 = portNumber q → s.arg p 1 = contextNumber c → s.arg p 2 = page → page < 512 →
    ((s.unit q).online = false →
      exec (.mapClearFor p) s = .next (renewed (answered s p 0x47 ⟨3, 0, 0, 0⟩))) ∧
    ((s.unit q).online = true → ∃ t, exec (.mapClearFor p) s = .next t ∧
      t.mapEntry q c page = none ∧
      (∀ r d g, r ≠ q ∨ d ≠ c ∨ g ≠ page → t.mapEntry r d g = s.mapEntry r d g) ∧
      t = renewed (answered
        (s.setUnit q { s.unit q with map0 := (t.unit q).map0, map1 := (t.unit q).map1 }) p 0x47
        ⟨0, pack [fContext c, fPage page],
          (match s.mapEntry q c page with
           | none => 0
           | some m => pack [fFlag true, fFrame m.frame, fFlag m.write]), 0⟩)) ∧
    (∀ (f : Nat) (write : Bool), s.arg p 3 = f + 65536 * write.toNat → f < s.frames → f < 65536 →
      ((s.unit q).online = false →
        exec (.mapSetFor p) s = .next (renewed (answered s p 0x46 ⟨3, 0, 0, 0⟩))) ∧
      ((s.unit q).online = true → (s.entry f).state = .poisoned →
        exec (.mapSetFor p) s = .next (renewed (answered s p 0x46 ⟨11, 0, 0, 0⟩))) ∧
      ((s.unit q).online = true → (s.entry f).state ≠ .poisoned → (s.entry f).holders.get q = false →
        exec (.mapSetFor p) s = .next (renewed (answered s p 0x46 ⟨9, 0, 0, 0⟩))) ∧
      ((s.unit q).online = true → (s.entry f).state ≠ .poisoned → (s.entry f).state ≠ .priv →
        (s.entry f).holders.get q = true → write = true →
        exec (.mapSetFor p) s = .next (renewed (answered s p 0x46 ⟨13, 0, 0, 0⟩))) ∧
      ((s.unit q).online = true → (s.entry f).holders.get q = true →
        (s.entry f).state = .priv ∨ ((s.entry f).state = .shared ∧ write = false) →
        ∃ t, exec (.mapSetFor p) s = .next t ∧ t.mapEntry q c page = some ⟨f, write⟩ ∧
          (∀ r d g, r ≠ q ∨ d ≠ c ∨ g ≠ page → t.mapEntry r d g = s.mapEntry r d g) ∧
          t = renewed (answered
            (s.setUnit q { s.unit q with map0 := (t.unit q).map0, map1 := (t.unit q).map1 }) p 0x46
            ⟨0, pack [fContext c, fPage page, fFrame f, fFlag write],
              (match s.mapEntry q c page with
               | none => 0
               | some m => pack [fFlag true, fFrame m.frame, fFlag m.write]),
              if (s.entry f).state = .priv then 1 else 2⟩)))

/-- SET_PARAMETER (R148): RANGE for an id other than 0 and 1, or a value that is 0 or above 65535, with no
parameter changed and the lease renewed with the parameter as it stood; otherwise the parameter is written,
with the id, the old and the new value in the results, and the renewal uses a new lease at once. -/
def Obligations.SetParameterWritesTable : Prop :=
  ∀ (p : Port) (s : State), ReadyWithToken s p →
    (1 < s.arg p 0 ∨ s.arg p 1 = 0 ∨ 65535 < s.arg p 1 →
      exec (.setParameter p) s = .next (renewed (answered s p 0x48 ⟨5, 0, 0, 0⟩))) ∧
    (s.arg p 0 = 0 → 0 < s.arg p 1 → s.arg p 1 ≤ 65535 →
      exec (.setParameter p) s =
        .next (renewed (answered { s with recallTimeout := s.arg p 1 } p 0x48
          ⟨0, 0, pack [fLarge s.recallTimeout], BitVec.ofNat 32 (s.arg p 1)⟩))) ∧
    (s.arg p 0 = 1 → 0 < s.arg p 1 → s.arg p 1 ≤ 65535 →
      exec (.setParameter p) s =
        .next (renewed (answered { s with leaseParam := s.arg p 1 } p 0x48
          ⟨0, 1, pack [fLarge s.leaseParam], BitVec.ofNat 32 (s.arg p 1)⟩)))

/-! ### The window and the memory port -/

/-- A window access at its arrival (R87 to R89): an error response alone for an OFFLINE port; BOUNDARY for a
burst past the page's end, then UNMAPPED for a page without a valid entry in the active context, then
WRITE_PROTECT for a write through a read-only entry, each with an error response and a FAULT record of the
word-aligned address. -/
def Obligations.WindowAccessFaultsAtArrival : Prop :=
  ∀ (p : Port) (a : Access) (addr : BitVec 21) (burst : Nat) (en : BitVec 4) (data : List Word)
    (s : State), addr.toNat < 0x100000 → 1 ≤ burst → burst ≤ 8 →
    data.length = (match a with | .read => 0 | .write => burst) → s.busServed p = true →
    let faulted := fun cause : FaultCause =>
      s.setUnit p { postUnit (s.unit p)
        (.fault (addr.toNat - addr.toNat % 4) (s.unit p).context a burst cause) with
        answer := some ⟨true, []⟩ }
    let entry := s.mapEntry p (s.unit p).context (addr.toNat / 2048)
    ((s.unit p).online = false → exec (.windowAccess p a addr burst en data) s =
      .next (s.setUnit p { s.unit p with answer := some ⟨true, []⟩ })) ∧
    ((s.unit p).online = true → 512 < addr.toNat % 2048 / 4 + burst →
      exec (.windowAccess p a addr burst en data) s = .next (faulted .boundary)) ∧
    ((s.unit p).online = true → addr.toNat % 2048 / 4 + burst ≤ 512 → entry = none →
      exec (.windowAccess p a addr burst en data) s = .next (faulted .unmapped)) ∧
    (∀ m, (s.unit p).online = true → addr.toNat % 2048 / 4 + burst ≤ 512 → entry = some m →
      a = .write → m.write = false →
      exec (.windowAccess p a addr burst en data) s = .next (faulted .writeProtect))

/-- A window access that is posted (R90, R92 to R95, R102, R103, R105, R113). While the memory port is busy it
waits. On an IDLE one it is granted at once, the pointer moves past its port, and the directory decides:
POISONED, STALE or WRITE_SHARED end it with an error response and a FAULT record, STALE making the entry not
valid and WRITE_SHARED making it read-only; otherwise it is in service, but for a write of no byte, which
is done (that it never stands in service: log 14). While a request of the port from before its reset is in
service, the access waits to be posted (R101, log 20). -/
def Obligations.WindowAccessAtGrant : Prop :=
  ∀ (p : Port) (a : Access) (addr : BitVec 21) (burst : Nat) (en : BitVec 4) (data : List Word)
    (m : MapEntry) (s : State), addr.toNat < 0x100000 → 1 ≤ burst → burst ≤ 8 →
    data.length = (match a with | .read => 0 | .write => burst) → Ready s p →
    addr.toNat % 2048 / 4 + burst ≤ 512 →
    s.mapEntry p (s.unit p).context (addr.toNat / 2048) = some m →
    (a = .write → m.write = true) →
    let r : Request :=
      { port := p, access := a, frame := m.frame, offset := addr.toNat % 2048 / 4, burst := burst,
        enables := en, data := data, context := (s.unit p).context, page := addr.toNat / 2048,
        addr := addr.toNat - addr.toNat % 4 }
    let e := s.entry m.frame
    let granted := fun (mem : MemPort) (u : PortUnit) =>
      { s.setUnit p { u with request := none } with memPort := mem, arbiter := ringNext (.port p) }
    let faulted := fun (cause : FaultCause) (u : PortUnit) =>
      { postUnit u (.fault r.addr r.context a burst cause) with answer := some ⟨true, []⟩ }
    (s.memPort ≠ .idle → s.inService p = false → exec (.windowAccess p a addr burst en data) s =
      .next (s.setUnit p { s.unit p with request := some r, answer := none })) ∧
    (s.inService p = true → exec (.windowAccess p a addr burst en data) s =
      .next (s.setUnit p { s.unit p with held := some r, answer := none })) ∧
    (s.memPort = .idle → IdleHasNoWork s →
      (e.state = .poisoned → exec (.windowAccess p a addr burst en data) s =
        .next (granted .idle (faulted .poisoned (s.unit p)))) ∧
      (e.state ≠ .poisoned → e.holders.get p = false →
        ∃ t, exec (.windowAccess p a addr burst en data) s = .next t ∧
          t.mapEntry p r.context r.page = none ∧
          (∀ q d g, q ≠ p ∨ d ≠ r.context ∨ g ≠ r.page → t.mapEntry q d g = s.mapEntry q d g) ∧
          t = granted .idle (faulted .stale
            { s.unit p with map0 := (t.unit p).map0, map1 := (t.unit p).map1 })) ∧
      (e.state ≠ .poisoned → e.holders.get p = true → a = .write → e.state ≠ .priv →
        ∃ t, exec (.windowAccess p a addr burst en data) s = .next t ∧
          t.mapEntry p r.context r.page = some { m with write := false } ∧
          (∀ q d g, q ≠ p ∨ d ≠ r.context ∨ g ≠ r.page → t.mapEntry q d g = s.mapEntry q d g) ∧
          t = granted .idle (faulted .writeShared
            { s.unit p with map0 := (t.unit p).map0, map1 := (t.unit p).map1 })) ∧
      (e.state ≠ .poisoned → e.holders.get p = true → a = .read ∨ e.state = .priv →
        a = .read ∨ en ≠ 0 → exec (.windowAccess p a addr burst en data) s =
        .next (granted (.serving (.window r false)) { s.unit p with answer := none })) ∧
      (e.holders.get p = true → e.state = .priv → a = .write → en = 0 →
        exec (.windowAccess p a addr burst en data) s =
        .next (granted .idle { s.unit p with answer := some ⟨false, []⟩ })))

/-- The error code (R107, R108, R109): a word with no bit in error is delivered as it is; with one bit in
error, whichever of the 39 it is, the right data are delivered and the word is written back valid; with two
bits in error nothing is delivered and the word is left as it was found. -/
def Obligations.ErrorCodeVerdicts : Prop :=
  ∀ (mem : Memory) (a : Nat) (upset : Bits39),
    let w := readStored mem a
    (w.failed ^^^ upset = 0 →
      (readWord mem a upset).2 = some w.data ∧ readStored (readWord mem a upset).1 a = ⟨w.data, 0⟩) ∧
    (∀ b : Fin 39, w.failed ^^^ upset = (1 : Bits39) <<< b.val →
      verdictOf (w.failed ^^^ upset) = .corrected b ∧
      (readWord mem a upset).2 = some w.data ∧ readStored (readWord mem a upset).1 a = ⟨w.data, 0⟩) ∧
    (∀ b c : Fin 39, b ≠ c → w.failed ^^^ upset = ((1 : Bits39) <<< b.val) ^^^ ((1 : Bits39) <<< c.val) →
      verdictOf (w.failed ^^^ upset) = .uncorrectable ∧ (readWord mem a upset).2 = none ∧
      readStored (readWord mem a upset).1 a = ⟨w.data, w.failed ^^^ upset⟩) ∧
    (∀ b, b ≠ a → readStored (readWord mem a upset).1 b = readStored mem b)

/-- A burst performed to its end without an error found (R98, R104, R110 to R114): a read delivers its words in
address order and leaves the array as it reads; a whole-word write replaces each word; a partial write keeps
the bytes that are not enabled (byte order: log 15). Every other word of the array is untouched, and the
port's transaction ends without error response. -/
def Obligations.BurstPerformed : Prop :=
  ∀ (r : Request) (s : State), s.memPort = .serving (.window r false) → OneRequestEach s →
    (∀ i < r.burst, (readStored s.memory (wordAddr r i)).failed = 0) →
    ∃ t, exec (.windowRequestComplete []) s = .next t ∧
      (∀ a, (∀ i < r.burst, a ≠ wordAddr r i) → readStored t.memory a = readStored s.memory a) ∧
      (r.access = .read →
        (t.unit r.port).answer = some ⟨false,
          (List.range r.burst).map (fun i => (readStored s.memory (wordAddr r i)).data)⟩ ∧
        ∀ a, readStored t.memory a = readStored s.memory a) ∧
      (r.access = .write → (t.unit r.port).answer = some ⟨false, []⟩ ∧
        ∀ i < r.burst, ∀ n < 32,
          (readStored t.memory (wordAddr r i)).data.getLsbD n =
            (if r.enables.getLsbD (n / 8) then (r.data.getD i 0).getLsbD n
             else (readStored s.memory (wordAddr r i)).data.getLsbD n) ∧
          (readStored t.memory (wordAddr r i)).failed = 0) ∧
      (∀ f, t.entry f = s.entry f)

/-- A read, or a write of one to three bytes a word, that meets an uncorrectable word (R112, R115 to R119, R50,
R70): the access ends there with an error response, after a read's words before it; the failing word stays as
it was found, no later word is touched, and a write has merged its bytes into those before (byte lanes: log
15). A FAULT record of the failing word's address comes next in the port's queue. A frame still PRIVATE or
SHARED is POISONED: its holders kept, the pin cleared, no recall, no waiter; each holder and the accessing
port get a POISONED record, and each waiter then a REFUSED one with its record back in the pool (where no
request waits and no frame is deferred). That the accessing port is told also where a FORCE_RELEASE has
removed it is log 30. A frame not in use keeps its entry. A port that was reset meanwhile (the discarded
request) gets no answer and no FAULT record, also where it is ONLINE again (log 32), and a POISONED record
only as a holder anew (log 31). The row UNCORRECTABLE_ERROR
and a completion that meets the word have the same effect (log 12), and UNCORRECTABLE_ERROR without such a
word has none. -/
def Obligations.UncorrectableEndsAccess : Prop :=
  (∀ (r : Request) (d : Bool) (s : State) (upsets : List Bits39) (place : Nat),
    s.memPort = .serving (.window r d) → OneRequestEach s →
    r.access = .read ∨ (r.access = .write ∧ r.enables ≠ 0 ∧ r.enables ≠ 0xF) →
    place < r.burst →
    (∀ i < place, (readStored s.memory (wordAddr r i)).failed ^^^ upsets.getD i 0 = 0) →
    verdictOf ((readStored s.memory (wordAddr r place)).failed ^^^ upsets.getD place 0) =
      .uncorrectable →
    let e := s.entry r.frame
    let fault : EventRecord := .fault (r.addr + 4 * place) r.context r.access r.burst .uncorrectable
    let delivered :=
      match r.access with
      | .read => (List.range place).map (fun i => (readStored s.memory (wordAddr r i)).data)
      | .write => []
    ∃ t, exec (.uncorrectableError upsets) s = .next t ∧
      exec (.windowRequestComplete upsets) s = .next t ∧
      (d = false → (t.unit r.port).answer = some ⟨true, delivered⟩) ∧
      readStored t.memory (wordAddr r place) =
        ⟨(readStored s.memory (wordAddr r place)).data,
          (readStored s.memory (wordAddr r place)).failed ^^^ upsets.getD place 0⟩ ∧
      (r.access = .read → ∀ a, (readStored t.memory a).data = (readStored s.memory a).data) ∧
      (r.access = .write → ∀ i < place, ∀ n < 32,
        (readStored t.memory (wordAddr r i)).data.getLsbD n =
          (if r.enables.getLsbD (n / 8) then (r.data.getD i 0).getLsbD n
           else (readStored s.memory (wordAddr r i)).data.getLsbD n)) ∧
      (∀ a, (∀ i ≤ place, a ≠ wordAddr r i) → readStored t.memory a = readStored s.memory a) ∧
      (d = false → (s.unit r.port).online = true → (s.unit r.port).events.length < 16 →
        ∃ later, (t.unit r.port).events = (s.unit r.port).events ++ fault :: later) ∧
      (inUse e.state = true →
        t.entry r.frame =
          { state := .poisoned, holders := e.holders, pinned := false, queue := [],
            recallField := .none } ∧
        t.poisonedCount = s.poisonedCount + 1 ∧ t.poolFree = s.poolFree + e.queue.length) ∧
      (inUse e.state = false → t.entry r.frame = e) ∧
      (∀ g, g ≠ r.frame → t.entry g = { s.entry g with recallField := (t.entry g).recallField }) ∧
      (inUse e.state = true → NoneWaiting s → (s.unit r.port).held = none → s.deferred = [] →
        (e.queue.map WaitRec.port).Nodup → ∀ q,
        let u0 := if q = r.port ∧ d = false then postUnit (s.unit q) fault else s.unit q
        let u1 :=
          if (q = r.port ∧ d = false) ∨ e.holders.get q = true then postUnit u0 (.poisoned r.frame)
          else u0
        let u2 :=
          match e.queue.find? (fun w => w.port == q) with
          | none => u1
          | some w => postUnit { u1 with waiting := u1.waiting - 1 } (.refused r.frame w.tag)
        t.unit q =
          if q = r.port ∧ d = false then { u2 with answer := some ⟨true, delivered⟩ } else u2)) ∧
  (∀ (r : Request) (d : Bool) (s : State), s.memPort = .serving (.window r d) →
    (∀ i < r.burst, (readStored s.memory (wordAddr r i)).failed = 0) →
    exec (.uncorrectableError []) s = .next s)

/-- A scrub burst (R106, R127, R128, R130, R131): its eight words hold the codeword of zero, and no other word
changes. Before burst 63 the next burst is posted, and served at once when nothing else waits. After burst
63 the head frame leaves the queue: without waiters it is FREE, with one it is granted; the notify port is
told, before the grant. Then burst 0 of the next head is posted; with the queue empty the sweep appends the
lowest UNINITIALIZED frame and posts its burst 0 (R133), and with none of those the engine is IDLE (R127). -/
def Obligations.ScrubBurstZeroes : Prop :=
  ∀ (q : ScrubRequest) (s : State), s.memPort = .serving (.scrub q) → NoneWaiting s →
    s.refreshDue = false →
    (∃ t, exec .scrubBurstComplete s = .next t ∧
      (∀ i < 8, readStored t.memory (scrubAddr q i) = ⟨0, 0⟩) ∧
      (∀ a, (∀ i < 8, a ≠ scrubAddr q i) → readStored t.memory a = readStored s.memory a)) ∧
    (q.burst < 63 → exec .scrubBurstComplete s = .next
      { s with memory := scrubPlaces q (List.range 8) s.memory, burst := q.burst + 1,
               memPort := .serving (.scrub ⟨q.frame, q.burst + 1⟩), arbiter := .port .P0 }) ∧
    (∀ origin notify, 63 ≤ q.burst → s.scrubQueue = [⟨q.frame, origin, notify⟩] →
      (s.entry q.frame).state = .scrubbing → (s.entry q.frame).holders = noPorts →
      (s.entry q.frame).recallField = .none → s.uninitCount = 0 →
      ((s.entry q.frame).queue = [] → ∃ t, exec .scrubBurstComplete s = .next t ∧
        t.entry q.frame = { s.entry q.frame with state := .free } ∧ t.scrubQueue = [] ∧
        t.memPort = .idle ∧ t.scrubRequest = none ∧ (∀ g, g ≠ q.frame → t.entry g = s.entry g) ∧
        (∀ p, t.unit p = if notify = some p then postUnit (s.unit p) (.scrubDone q.frame)
          else s.unit p)) ∧
      (∀ w, (s.entry q.frame).queue = [w] → ∃ t, exec .scrubBurstComplete s = .next t ∧
        t.entry q.frame =
          { s.entry q.frame with
            state := heldState w.mode, holders := onePort w.port, queue := [] } ∧
        t.scrubQueue = [] ∧ t.memPort = .idle ∧ t.poolFree = s.poolFree + 1 ∧
        (∀ p,
          let u := if notify = some p then postUnit (s.unit p) (.scrubDone q.frame) else s.unit p
          t.unit p =
            if p = w.port then
              postUnit { u with waiting := u.waiting - 1, holding := u.holding + 1 }
                (.grant q.frame w.mode w.tag false false false)
            else u))) ∧
    (∀ origin notify next rest, 63 ≤ q.burst →
      s.scrubQueue = ⟨q.frame, origin, notify⟩ :: next :: rest → (s.entry q.frame).queue = [] →
      ∃ t, exec .scrubBurstComplete s = .next t ∧
        t.entry q.frame = { s.entry q.frame with state := .free } ∧
        t.scrubQueue = next :: rest ∧ t.burst = 0 ∧ t.scrubRequest = none ∧
        t.memPort = .serving (.scrub ⟨next.frame, 0⟩) ∧ t.arbiter = .port .P0 ∧
        (∀ g, g ≠ q.frame → t.entry g = s.entry g) ∧
        (∀ p, t.unit p = if notify = some p then postUnit (s.unit p) (.scrubDone q.frame)
          else s.unit p)) ∧
    (∀ origin notify g, 63 ≤ q.burst → s.scrubQueue = [⟨q.frame, origin, notify⟩] →
      (s.entry q.frame).queue = [] → (s.entry q.frame).state = .scrubbing →
      0 < s.uninitCount → g < s.frames → (s.entry g).state = .uninitialized →
      (∀ h < g, (s.entry h).state ≠ .uninitialized) →
      ∃ t, exec .scrubBurstComplete s = .next t ∧
        t.entry q.frame = { s.entry q.frame with state := .free } ∧
        t.entry g = { s.entry g with state := .scrubbing, pinned := false } ∧
        t.uninitCount = s.uninitCount - 1 ∧
        t.scrubQueue = [⟨g, .sweep, none⟩] ∧ t.burst = 0 ∧ t.scrubRequest = none ∧
        t.memPort = .serving (.scrub ⟨g, 0⟩) ∧ t.arbiter = .port .P0 ∧
        (∀ h, h ≠ q.frame → h ≠ g → t.entry h = s.entry h))

/-- Refresh (R103): when the refresh timer expires, every 7 us, an IDLE memory port begins a refresh of 1 us
and a busy one has a refresh due; that the two events do nothing before their time is the model's choice (log
5). At the end of a refresh a further one that is due begins; otherwise the arbiter chooses, and with nothing
waiting the port is IDLE. The arbiter serves the first requester in ring order from its pointer that has a
request waiting, whatever others wait, and the pointer moves past it (R102): the scrub engine, or a port whose
request the directory admits (R92). -/
def Obligations.RefreshEvents : Prop :=
  ∀ s : State,
    (s.rstAsserted = false → s.refreshAt ≤ s.now → s.memPort = .idle →
      exec .refreshTimerExpiry s = .next
        { s with refreshAt := s.refreshAt + 7, memPort := .refresh, refreshDue := false,
                 refreshEnd := s.now + 1 }) ∧
    (s.rstAsserted = false → s.refreshAt ≤ s.now → s.memPort ≠ .idle →
      exec .refreshTimerExpiry s = .next
        { s with refreshAt := s.refreshAt + 7, refreshDue := true }) ∧
    (s.now < s.refreshAt → exec .refreshTimerExpiry s = .next s) ∧
    (s.memPort = .refresh → s.refreshEnd ≤ s.now → s.refreshDue = true →
      exec .refreshComplete s = .next { s with refreshDue := false, refreshEnd := s.now + 1 }) ∧
    (s.memPort = .refresh → s.refreshEnd ≤ s.now → s.refreshDue = false → NoneWaiting s →
      exec .refreshComplete s = .next { s with memPort := .idle }) ∧
    (∀ q, s.memPort = .refresh → s.refreshEnd ≤ s.now → s.refreshDue = false →
      (∀ p, (s.unit p).request = none) → s.scrubRequest = some q →
      exec .refreshComplete s = .next
        { s with memPort := .serving (.scrub q), scrubRequest := none, arbiter := .port .P0 }) ∧
    (∀ a k : Nat, s.memPort = .refresh → s.refreshEnd ≤ s.now → s.refreshDue = false →
      s.arbiter = requesterAt a → k < 5 → (∀ j < k, NothingWaitingAt s (requesterAt (a + j))) →
      (∀ p r, requesterAt (a + k) = .port p → (s.unit p).request = some r →
        (s.entry r.frame).holders.get r.port = true →
        (r.access = .read ∧ (s.entry r.frame).state ≠ .poisoned) ∨
          ((s.entry r.frame).state = .priv ∧ r.enables ≠ 0) →
        exec .refreshComplete s = .next
          { s.setUnit p { s.unit p with request := none } with
            memPort := .serving (.window r false), arbiter := requesterAt (a + k + 1) }) ∧
      (∀ q, requesterAt (a + k) = .scrub → s.scrubRequest = some q →
        exec .refreshComplete s = .next
          { s with memPort := .serving (.scrub q), scrubRequest := none,
                   arbiter := requesterAt (a + k + 1) })) ∧
    (s.now < s.refreshEnd → exec .refreshComplete s = .next s)

/-! ### Time -/

/-- A recall that runs out (R61, R62, R63, R36, R38): at its deadline every port of the to-release set that
still holds the frame is revoked, with a REVOKED record of cause TIMEOUT each; the record is freed; and with
no holder left the head is granted, its GRANT record carrying the forced flag (here with one waiter that is
no holder, and no frame deferred). For a frame without an active recall the event does nothing (R64); that it
does nothing before the deadline is the model's choice (log 5). -/
def Obligations.RecallDeadlineRevokes : Prop :=
  ∀ (f : Nat) (s : State),
    (∀ i r, (s.entry f).recallField = .active i → s.recalls.get i = some r → r.frame = f →
      s.now < r.deadline → exec (.recallDeadline f) s = .next s) ∧
    ((∀ i, (s.entry f).recallField ≠ .active i) → exec (.recallDeadline f) s = .next s) ∧
    (∀ i r w, (s.entry f).recallField = .active i → s.recalls.get i = some r → r.frame = f →
      r.deadline ≤ s.now → inUse (s.entry f).state = true → (s.entry f).holders = r.toRelease →
      (s.entry f).queue = [w] → r.toRelease.get w.port = false → s.deferred = [] →
      ∃ t, exec (.recallDeadline f) s = .next t ∧
        t.entry f =
          { state := heldState w.mode, holders := onePort w.port, pinned := false, queue := [],
            recallField := .none } ∧
        t.recalls = s.recalls.set i none ∧ t.deferred = [] ∧ t.poolFree = s.poolFree + 1 ∧
        (∀ q, r.toRelease.get q = true → t.unit q =
          postUnit { s.unit q with holding := (s.unit q).holding - 1 } (.revoked f .timeout)) ∧
        t.unit w.port = postUnit
          { s.unit w.port with
            waiting := (s.unit w.port).waiting - 1, holding := (s.unit w.port).holding + 1 }
          (.grant f w.mode w.tag true false false) ∧
        (∀ q, r.toRelease.get q = false → q ≠ w.port → t.unit q = s.unit q) ∧
        (∀ g, g ≠ f → t.entry g = s.entry g) ∧ t.memory = s.memory ∧ t.memPort = s.memPort)
end

