-- ==== Sys2Proof/Laws/State.lean ====
section
/-! SUPPORT. One lemma a field for each update of a state or a port unit, and the laws of values held once a
port. -/

namespace Sys2Proof.Laws

open Sys2Proof.Machine

/-! ### Values held once a port -/

@[simp] theorem perPort_get_set_same {α : Type} (v : PerPort α) (p : Port) (a : α) :
    (v.set p a).get p = a := by
  cases p <;> rfl

theorem perPort_get_set_ne {α : Type} (v : PerPort α) {p q : Port} (a : α) (h : q ≠ p) :
    (v.set p a).get q = v.get q := by
  cases p <;> cases q <;> first | rfl | exact absurd rfl h

theorem perPort_get_set {α : Type} (v : PerPort α) (p q : Port) (a : α) :
    (v.set p a).get q = if q = p then a else v.get q := by
  cases p <;> cases q <;> rfl

@[simp] theorem perPort_get_all {α : Type} (a : α) (p : Port) : (PerPort.all a).get p = a := by
  cases p <;> rfl

/-- Two values held once a port are equal when every port's is. -/
theorem perPort_ext {α : Type} {v w : PerPort α} (h : ∀ p, v.get p = w.get p) : v = w := by
  obtain ⟨a, b, c, d⟩ := v
  obtain ⟨a', b', c', d'⟩ := w
  have h0 := h .P0
  have h1 := h .P1
  have h2 := h .P2
  have h3 := h .P3
  simp only [PerPort.get] at h0 h1 h2 h3
  subst h0 h1 h2 h3
  rfl

@[simp] theorem perPort_set_get_same {α : Type} (v : PerPort α) (p : Port) :
    v.set p (v.get p) = v := by
  cases p <;> rfl

@[simp] theorem perPort_set_set_same {α : Type} (v : PerPort α) (p : Port) (a b : α) :
    (v.set p a).set p b = v.set p b := by
  cases p <;> rfl

@[simp] theorem noPorts_get (p : Port) : noPorts.get p = false := by
  cases p <;> rfl

theorem onePort_get (p q : Port) : (onePort p).get q = decide (q = p) := by
  cases p <;> cases q <;> rfl

@[simp] theorem onePort_get_same (p : Port) : (onePort p).get p = true := by
  cases p <;> rfl

theorem setIsEmpty_iff (ps : PortSet) : setIsEmpty ps = true ↔ ∀ p, ps.get p = false := by
  constructor
  · intro h p
    have : ps = noPorts := by simpa [setIsEmpty] using h
    simp [this]
  · intro h
    have : ps = noPorts := perPort_ext (fun p => by simp [h p])
    simp [setIsEmpty, this]

theorem mem_members (ps : PortSet) (p : Port) : p ∈ members ps ↔ ps.get p = true := by
  cases p <;> simp [members, allPorts]

theorem members_nodup (ps : PortSet) : (members ps).Nodup := by
  apply List.Nodup.filter
  decide

/-! ### Port units -/

@[simp] theorem setUnit_unit_same (s : State) (p : Port) (u : PortUnit) : (s.setUnit p u).unit p = u := by
  simp [State.setUnit, State.unit]

theorem setUnit_unit_ne (s : State) {p q : Port} (u : PortUnit) (h : q ≠ p) :
    (s.setUnit p u).unit q = s.unit q := by
  simp [State.setUnit, State.unit, perPort_get_set_ne _ _ h]

theorem setUnit_unit (s : State) (p q : Port) (u : PortUnit) :
    (s.setUnit p u).unit q = if q = p then u else s.unit q := by
  simp [State.setUnit, State.unit, perPort_get_set]

@[simp] theorem setUnit_unit_self (s : State) (p : Port) : s.setUnit p (s.unit p) = s := by
  simp [State.setUnit, State.unit]

@[simp] theorem setUnit_setUnit_same (s : State) (p : Port) (u v : PortUnit) :
    (s.setUnit p u).setUnit p v = s.setUnit p v := by
  simp [State.setUnit]

@[simp] theorem setUnit_rstAsserted (s : State) (p : Port) (u : PortUnit) :
    (s.setUnit p u).rstAsserted = s.rstAsserted := rfl
@[simp] theorem setUnit_now (s : State) (p : Port) (u : PortUnit) : (s.setUnit p u).now = s.now := rfl
@[simp] theorem setUnit_frames (s : State) (p : Port) (u : PortUnit) :
    (s.setUnit p u).frames = s.frames := rfl
@[simp] theorem setUnit_dir (s : State) (p : Port) (u : PortUnit) : (s.setUnit p u).dir = s.dir := rfl
@[simp] theorem setUnit_entry (s : State) (p : Port) (u : PortUnit) (f : Nat) :
    (s.setUnit p u).entry f = s.entry f := rfl
@[simp] theorem setUnit_uninitCount (s : State) (p : Port) (u : PortUnit) :
    (s.setUnit p u).uninitCount = s.uninitCount := rfl
@[simp] theorem setUnit_quarantinedCount (s : State) (p : Port) (u : PortUnit) :
    (s.setUnit p u).quarantinedCount = s.quarantinedCount := rfl
@[simp] theorem setUnit_poisonedCount (s : State) (p : Port) (u : PortUnit) :
    (s.setUnit p u).poisonedCount = s.poisonedCount := rfl
@[simp] theorem setUnit_poolFree (s : State) (p : Port) (u : PortUnit) :
    (s.setUnit p u).poolFree = s.poolFree := rfl
@[simp] theorem setUnit_arrival (s : State) (p : Port) (u : PortUnit) :
    (s.setUnit p u).arrival = s.arrival := rfl
@[simp] theorem setUnit_recalls (s : State) (p : Port) (u : PortUnit) :
    (s.setUnit p u).recalls = s.recalls := rfl
@[simp] theorem setUnit_deferred (s : State) (p : Port) (u : PortUnit) :
    (s.setUnit p u).deferred = s.deferred := rfl
@[simp] theorem setUnit_token (s : State) (p : Port) (u : PortUnit) : (s.setUnit p u).token = s.token := rfl
@[simp] theorem setUnit_leaseDeadline (s : State) (p : Port) (u : PortUnit) :
    (s.setUnit p u).leaseDeadline = s.leaseDeadline := rfl
@[simp] theorem setUnit_recallTimeout (s : State) (p : Port) (u : PortUnit) :
    (s.setUnit p u).recallTimeout = s.recallTimeout := rfl
@[simp] theorem setUnit_leaseParam (s : State) (p : Port) (u : PortUnit) :
    (s.setUnit p u).leaseParam = s.leaseParam := rfl
@[simp] theorem setUnit_scrubQueue (s : State) (p : Port) (u : PortUnit) :
    (s.setUnit p u).scrubQueue = s.scrubQueue := rfl
@[simp] theorem setUnit_burst (s : State) (p : Port) (u : PortUnit) : (s.setUnit p u).burst = s.burst := rfl
@[simp] theorem setUnit_sweepComplete (s : State) (p : Port) (u : PortUnit) :
    (s.setUnit p u).sweepComplete = s.sweepComplete := rfl
@[simp] theorem setUnit_scrubRequest (s : State) (p : Port) (u : PortUnit) :
    (s.setUnit p u).scrubRequest = s.scrubRequest := rfl
@[simp] theorem setUnit_memPort (s : State) (p : Port) (u : PortUnit) :
    (s.setUnit p u).memPort = s.memPort := rfl
@[simp] theorem setUnit_arbiter (s : State) (p : Port) (u : PortUnit) :
    (s.setUnit p u).arbiter = s.arbiter := rfl
@[simp] theorem setUnit_refreshDue (s : State) (p : Port) (u : PortUnit) :
    (s.setUnit p u).refreshDue = s.refreshDue := rfl
@[simp] theorem setUnit_refreshAt (s : State) (p : Port) (u : PortUnit) :
    (s.setUnit p u).refreshAt = s.refreshAt := rfl
@[simp] theorem setUnit_refreshEnd (s : State) (p : Port) (u : PortUnit) :
    (s.setUnit p u).refreshEnd = s.refreshEnd := rfl
@[simp] theorem setUnit_memory (s : State) (p : Port) (u : PortUnit) :
    (s.setUnit p u).memory = s.memory := rfl
@[simp] theorem setUnit_draws (s : State) (p : Port) (u : PortUnit) : (s.setUnit p u).draws = s.draws := rfl
@[simp] theorem setUnit_pending (s : State) (p : Port) (u : PortUnit) :
    (s.setUnit p u).pending = s.pending := rfl

/-! ### Directory entries: what putEntry leaves alone -/

@[simp] theorem putEntry_rstAsserted (s : State) (f : Nat) (e : Entry) :
    (s.putEntry f e).rstAsserted = s.rstAsserted := rfl
@[simp] theorem putEntry_now (s : State) (f : Nat) (e : Entry) : (s.putEntry f e).now = s.now := rfl
@[simp] theorem putEntry_frames (s : State) (f : Nat) (e : Entry) :
    (s.putEntry f e).frames = s.frames := rfl
@[simp] theorem putEntry_dir (s : State) (f : Nat) (e : Entry) :
    (s.putEntry f e).dir = putDirectory s.dir f e := rfl
@[simp] theorem putEntry_poolFree (s : State) (f : Nat) (e : Entry) :
    (s.putEntry f e).poolFree = s.poolFree := rfl
@[simp] theorem putEntry_arrival (s : State) (f : Nat) (e : Entry) :
    (s.putEntry f e).arrival = s.arrival := rfl
@[simp] theorem putEntry_recalls (s : State) (f : Nat) (e : Entry) :
    (s.putEntry f e).recalls = s.recalls := rfl
@[simp] theorem putEntry_deferred (s : State) (f : Nat) (e : Entry) :
    (s.putEntry f e).deferred = s.deferred := rfl
@[simp] theorem putEntry_token (s : State) (f : Nat) (e : Entry) : (s.putEntry f e).token = s.token := rfl
@[simp] theorem putEntry_leaseDeadline (s : State) (f : Nat) (e : Entry) :
    (s.putEntry f e).leaseDeadline = s.leaseDeadline := rfl
@[simp] theorem putEntry_recallTimeout (s : State) (f : Nat) (e : Entry) :
    (s.putEntry f e).recallTimeout = s.recallTimeout := rfl
@[simp] theorem putEntry_leaseParam (s : State) (f : Nat) (e : Entry) :
    (s.putEntry f e).leaseParam = s.leaseParam := rfl
@[simp] theorem putEntry_scrubQueue (s : State) (f : Nat) (e : Entry) :
    (s.putEntry f e).scrubQueue = s.scrubQueue := rfl
@[simp] theorem putEntry_burst (s : State) (f : Nat) (e : Entry) : (s.putEntry f e).burst = s.burst := rfl
@[simp] theorem putEntry_scrubRequest (s : State) (f : Nat) (e : Entry) :
    (s.putEntry f e).scrubRequest = s.scrubRequest := rfl
@[simp] theorem putEntry_memPort (s : State) (f : Nat) (e : Entry) :
    (s.putEntry f e).memPort = s.memPort := rfl
@[simp] theorem putEntry_arbiter (s : State) (f : Nat) (e : Entry) :
    (s.putEntry f e).arbiter = s.arbiter := rfl
@[simp] theorem putEntry_refreshDue (s : State) (f : Nat) (e : Entry) :
    (s.putEntry f e).refreshDue = s.refreshDue := rfl
@[simp] theorem putEntry_refreshAt (s : State) (f : Nat) (e : Entry) :
    (s.putEntry f e).refreshAt = s.refreshAt := rfl
@[simp] theorem putEntry_refreshEnd (s : State) (f : Nat) (e : Entry) :
    (s.putEntry f e).refreshEnd = s.refreshEnd := rfl
@[simp] theorem putEntry_memory (s : State) (f : Nat) (e : Entry) :
    (s.putEntry f e).memory = s.memory := rfl
@[simp] theorem putEntry_draws (s : State) (f : Nat) (e : Entry) : (s.putEntry f e).draws = s.draws := rfl
@[simp] theorem putEntry_pending (s : State) (f : Nat) (e : Entry) :
    (s.putEntry f e).pending = s.pending := rfl

/-- putEntry changes a port unit in its holding count alone (R163). -/
theorem putEntry_unit (s : State) (f : Nat) (e : Entry) (p : Port) :
    (s.putEntry f e).unit p =
      { s.unit p with
        holding := countChange ((s.entry f).holders.get p) (e.holders.get p) (s.unit p).holding } := by
  cases p <;> rfl

/-! ### Records queued -/

/-- Queuing a record changes a port unit in its queue and OVERRUN alone. -/
theorem postUnit_touches (u : PortUnit) (r : EventRecord) :
    postUnit u r = { u with events := (postUnit u r).events, overrun := (postUnit u r).overrun } := by
  unfold postUnit
  split
  · split
    · rfl
    · rfl
  · rfl

/-- What queuing a record can do (R165, R178, R181): nothing to an OFFLINE port, one record at the tail of a
queue with room, OVERRUN for a full one. -/
theorem postUnit_cases (u : PortUnit) (r : EventRecord) :
    (u.online = false ∧ postUnit u r = u) ∨
    (u.online = true ∧ u.events.length < 16 ∧ postUnit u r = { u with events := u.events ++ [r] }) ∨
    (u.online = true ∧ 16 ≤ u.events.length ∧ postUnit u r = { u with overrun := true }) := by
  unfold postUnit
  cases ho : u.online <;> by_cases hl : u.events.length < 16 <;> simp [hl] ; omega

theorem post_unit (s : State) (p q : Port) (r : EventRecord) :
    (s.post p r).unit q = if q = p then postUnit (s.unit p) r else s.unit q := by
  simp [State.post, setUnit_unit]

/-! ### The lease, the code and the results -/

@[simp] theorem renewLease_unit (s : State) (p : Port) : s.renewLease.unit p = s.unit p := rfl
@[simp] theorem renewLease_entry (s : State) (f : Nat) : s.renewLease.entry f = s.entry f := rfl
@[simp] theorem nextDraw_unit (s : State) (p : Port) : s.nextDraw.unit p = s.unit p := rfl
@[simp] theorem nextDraw_entry (s : State) (f : Nat) : s.nextDraw.entry f = s.entry f := rfl
@[simp] theorem takeCode_entry (s : State) (p : Port) (code : Word) (f : Nat) :
    (s.takeCode p code).entry f = s.entry f := rfl
@[simp] theorem reply_entry (s : State) (p : Port) (c : ResultCode) (a b d : Word) (f : Nat) :
    (s.reply p c a b d).entry f = s.entry f := rfl
@[simp] theorem refuse_entry (s : State) (p : Port) (c : ResultCode) (f : Nat) :
    (s.refuse p c).entry f = s.entry f := rfl
@[simp] theorem post_entry (s : State) (p : Port) (r : EventRecord) (f : Nat) :
    (s.post p r).entry f = s.entry f := rfl

end Sys2Proof.Laws
end

