-- ==== Sys2Proof/Laws/ControlRegion.lean ====
section
/-! SUPPORT. What taking a control-region access can do, each operation said once. -/

namespace Sys2Proof.Laws

open Sys2Proof.Machine

@[simp] theorem controlWriteRow_portStatus (p : Port) (v : Word) :
    controlWriteRow p 1 v = .portStatusWrite p v := rfl
@[simp] theorem controlWriteRow_intEnable (p : Port) (v : Word) :
    controlWriteRow p 2 v = .intEnableWrite p v := rfl
@[simp] theorem controlWriteRow_command (p : Port) (v : Word) : controlWriteRow p 8 v = issueOf p v := rfl
@[simp] theorem controlWriteRow_eventPop (p : Port) (v : Word) :
    controlWriteRow p 21 v = .eventPop p v := rfl

/-- Every other word's write is a REGISTER_WRITE (R191). -/
theorem controlWriteRow_other (p : Port) (n : Nat) (v : Word) (h1 : n ≠ 1) (h2 : n ≠ 2) (h8 : n ≠ 8)
    (h21 : n ≠ 21) : controlWriteRow p n v = .registerWrite p n v := by
  unfold controlWriteRow
  split <;> first | rfl | contradiction

@[simp] theorem controlWriteRows_length (p : Port) (n : Nat) (l : List Word) :
    (controlWriteRows p n l).length = l.length := by
  induction l generalizing n with
  | nil => rfl
  | cons v rest ih => simp [controlWriteRows, ih]

@[simp] theorem takeRows_nil (s : State) : State.takeRows [] s = s := rfl

/-- Rows that answer next are taken one after the other. -/
theorem takeRows_cons {i : Instr} {s t : State} (rest : List Instr) (h : exec i s = .next t) :
    State.takeRows (i :: rest) s = State.takeRows rest t := by
  rw [State.takeRows, h]

/-- A read changes nothing but the port's answer (R191). -/
theorem readControl_touches (s : State) (p : Port) (addr : BitVec 21) (burst : Nat) :
    s.readControl p addr burst =
      s.setUnit p { s.unit p with answer := ((s.readControl p addr burst).unit p).answer } := by
  unfold State.readControl
  split
  · simp [State.answerBus]
  · exact (setUnit_unit_self s p).symm

end Sys2Proof.Laws
end

