-- ==== Sys2Proof/Laws/Sparse.lean ====
section
/-! SUPPORT. The laws of the sparse lists, and of the directory, the maps and the array that they hold:
reading what was written, leaving the rest alone, keeping the canonical form. -/

namespace Sys2Proof.Laws

open Sys2Proof.Machine

/-! ### Sparse lists -/

variable {α : Type}

theorem sparse_rising_tail {c : Nat × α} {l : List (Nat × α)} (h : Sparse.rising (c :: l)) :
    Sparse.rising l := (List.pairwise_cons.1 h).2

theorem sparse_find_of_lt {l : List (Nat × α)} {a : Nat} (h : ∀ c ∈ l, a < c.1) :
    Sparse.find? l a = none := by
  induction l with
  | nil => rfl
  | cons c t ih =>
    have hc := h c (by simp)
    rw [Sparse.find?, if_neg (by omega)]
    exact ih (fun d hd => h d (by simp [hd]))

theorem sparse_find_erase_same (l : List (Nat × α)) (a : Nat) :
    Sparse.find? (Sparse.erase l a) a = none := by
  induction l with
  | nil => rfl
  | cons c t ih =>
    unfold Sparse.erase at ih ⊢
    by_cases h : c.1 = a
    · simpa [List.filter_cons, h] using ih
    · rw [List.filter_cons_of_pos (by simp [h])]
      rw [Sparse.find?, if_neg (fun e => h e.symm)]
      exact ih

theorem sparse_find_erase_ne (l : List (Nat × α)) {a b : Nat} (h : b ≠ a) :
    Sparse.find? (Sparse.erase l a) b = Sparse.find? l b := by
  induction l with
  | nil => rfl
  | cons c t ih =>
    unfold Sparse.erase at ih ⊢
    by_cases hc : c.1 = a
    · rw [List.filter_cons_of_neg (by simp [hc]), ih, Sparse.find?, if_neg (by omega)]
    · rw [List.filter_cons_of_pos (by simp [hc]), Sparse.find?, Sparse.find?, ih]

theorem sparse_find_insert (l : List (Nat × α)) (a b : Nat) (v : α) (hn : Sparse.find? l a = none) :
    Sparse.find? (Sparse.insert l a v) b = if b = a then some v else Sparse.find? l b := by
  induction l with
  | nil => simp [Sparse.insert, Sparse.find?]
  | cons c t ih =>
    rw [Sparse.find?] at hn
    have hca : a ≠ c.1 := fun e => by simp [e] at hn
    rw [if_neg hca] at hn
    rw [Sparse.insert]
    split
    · rw [Sparse.find?]
    · rw [Sparse.find?, Sparse.find?, ih hn]
      by_cases hb : b = c.1
      · simp [hb, Ne.symm hca]
      · simp [hb]

/-- Reading a key after it was put. -/
@[simp] theorem sparse_find_put_same (l : List (Nat × α)) (a : Nat) (v : α) :
    Sparse.find? (Sparse.put l a v) a = some v := by
  rw [Sparse.put, sparse_find_insert _ _ _ _ (sparse_find_erase_same l a), if_pos rfl]

/-- Reading another key after one was put. -/
theorem sparse_find_put_ne (l : List (Nat × α)) {a b : Nat} (v : α) (h : b ≠ a) :
    Sparse.find? (Sparse.put l a v) b = Sparse.find? l b := by
  rw [Sparse.put, sparse_find_insert _ _ _ _ (sparse_find_erase_same l a), if_neg h,
    sparse_find_erase_ne l h]

theorem sparse_mem_insert {l : List (Nat × α)} {a : Nat} {v : α} {c : Nat × α} :
    c ∈ Sparse.insert l a v ↔ c = (a, v) ∨ c ∈ l := by
  induction l with
  | nil => simp [Sparse.insert]
  | cons d t ih =>
    rw [Sparse.insert]
    split
    · simp
    · simp only [List.mem_cons, ih]
      tauto

theorem sparse_mem_erase {l : List (Nat × α)} {a : Nat} {c : Nat × α} :
    c ∈ Sparse.erase l a ↔ c ∈ l ∧ c.1 ≠ a := by
  simp [Sparse.erase]

theorem sparse_mem_put {l : List (Nat × α)} {a : Nat} {v : α} {c : Nat × α} :
    c ∈ Sparse.put l a v ↔ c = (a, v) ∨ (c ∈ l ∧ c.1 ≠ a) := by
  rw [Sparse.put, sparse_mem_insert, sparse_mem_erase]

theorem sparse_rising_erase {l : List (Nat × α)} (a : Nat) (h : Sparse.rising l) :
    Sparse.rising (Sparse.erase l a) := h.filter _

theorem sparse_rising_insert {l : List (Nat × α)} {a : Nat} (v : α) (h : Sparse.rising l)
    (hn : ∀ c ∈ l, c.1 ≠ a) : Sparse.rising (Sparse.insert l a v) := by
  induction l with
  | nil => exact List.pairwise_singleton _ _
  | cons d t ih =>
    obtain ⟨hd, ht⟩ := List.pairwise_cons.1 h
    have hda := hn d (by simp)
    rw [Sparse.insert]
    split
    · rename_i hlt
      refine List.pairwise_cons.2 ⟨fun c hc => ?_, h⟩
      rcases List.mem_cons.1 hc with rfl | hc
      · exact hlt
      · exact lt_trans hlt (hd c hc)
    · rename_i hge
      refine List.pairwise_cons.2 ⟨fun c hc => ?_, ih ht (fun c hc => hn c (by simp [hc]))⟩
      rcases sparse_mem_insert.1 hc with rfl | hc
      · show d.1 < a
        have : ¬ a < d.1 := hge
        omega
      · exact hd c hc

theorem sparse_rising_put {l : List (Nat × α)} (a : Nat) (v : α) (h : Sparse.rising l) :
    Sparse.rising (Sparse.put l a v) :=
  sparse_rising_insert v (sparse_rising_erase a h) (fun _ hc => (sparse_mem_erase.1 hc).2)

/-- In a rising list, what is listed is what is found. -/
theorem sparse_find_iff_mem {l : List (Nat × α)} (h : Sparse.rising l) (a : Nat) (v : α) :
    Sparse.find? l a = some v ↔ (a, v) ∈ l := by
  induction l with
  | nil => simp [Sparse.find?]
  | cons d t ih =>
    obtain ⟨hd, ht⟩ := List.pairwise_cons.1 h
    rw [Sparse.find?]
    by_cases ha : a = d.1
    · rw [if_pos ha]
      constructor
      · intro e
        have : v = d.2 := by simpa using e.symm
        simp [ha, this]
      · intro hm
        rcases List.mem_cons.1 hm with e | hm
        · simp [← e]
        · exact absurd (hd _ hm) (by simp [ha])
    · rw [if_neg ha, ih ht]
      simp [Prod.ext_iff, ha]

/-! ### The array -/

/-- Reading a word after it was written. -/
@[simp] theorem readStored_writeStored_same (m : Memory) (a : Nat) (v : Stored) :
    readStored (writeStored m a v) a = v := by
  unfold readStored writeStored
  split
  · rename_i h
    rw [sparse_find_erase_same, h]
    rfl
  · rw [sparse_find_put_same]
    rfl

/-- Reading another word after one was written. -/
theorem readStored_writeStored_ne (m : Memory) {a b : Nat} (v : Stored) (h : b ≠ a) :
    readStored (writeStored m a v) b = readStored m b := by
  unfold readStored writeStored
  split
  · rw [sparse_find_erase_ne m h]
  · rw [sparse_find_put_ne m v h]

/-- A write keeps the canonical form of the array. -/
theorem memory_wf_writeStored {m : Memory} (a : Nat) (v : Stored) (h : Memory.wf m) :
    Memory.wf (writeStored m a v) := by
  unfold writeStored
  split
  · exact ⟨sparse_rising_erase a h.1, fun c hc => h.2 c (sparse_mem_erase.1 hc).1⟩
  · rename_i hv
    refine ⟨sparse_rising_put a v h.1, fun c hc => ?_⟩
    rcases sparse_mem_put.1 hc with rfl | hc
    · exact hv
    · exact h.2 c hc.1

/-- Two arrays in canonical form that read alike are equal. -/
theorem memory_ext {m n : Memory} (hm : Memory.wf m) (hn : Memory.wf n)
    (h : ∀ a, readStored m a = readStored n a) : m = n := by
  have key : ∀ {p q : Memory}, Memory.wf p → Memory.wf q →
      (∀ a, readStored p a = readStored q a) → ∀ c ∈ p, c ∈ q := by
    intro p q hp hq he c hc
    have h1 := (sparse_find_iff_mem hp.1 c.1 c.2).2 hc
    have h2 := he c.1
    unfold readStored at h2
    rw [h1] at h2
    cases h3 : Sparse.find? q c.1 with
    | none =>
      rw [h3] at h2
      exact absurd h2 (hp.2 c hc)
    | some w =>
      rw [h3] at h2
      have : c.2 = w := h2
      rw [← this] at h3
      exact (sparse_find_iff_mem hq.1 c.1 c.2).1 h3
  have nodup : ∀ {p : Memory}, Memory.wf p → p.Nodup := fun hp =>
    hp.1.imp (fun hlt e => by rw [e] at hlt; exact lt_irrefl _ hlt)
  have hperm : List.Perm m n := (List.perm_ext_iff_of_nodup (nodup hm) (nodup hn)).2
    (fun c => ⟨key hm hn h c, key hn hm (fun a => (h a).symm) c⟩)
  exact hperm.eq_of_pairwise (le := fun a b => a.1 < b.1)
    (fun a b _ _ hab hba => absurd (lt_trans hab hba) (lt_irrefl _)) hm.1 hn.1

theorem reset_memory_wf : Memory.wf State.reset.memory := by
  refine ⟨List.Pairwise.nil, ?_⟩
  intro c hc
  exact absurd hc (by simp [State.reset, State.afterPartReset])

/-- A read keeps the canonical form of the array. -/
theorem memory_wf_readWord {m : Memory} (a : Nat) (upset : Bits39) (h : Memory.wf m) :
    Memory.wf (readWord m a upset).1 := by
  unfold readWord
  dsimp only
  split <;> exact memory_wf_writeStored _ _ h

/-- A read leaves the other words alone. -/
theorem readStored_readWord_ne (m : Memory) {a b : Nat} (upset : Bits39) (h : b ≠ a) :
    readStored (readWord m a upset).1 b = readStored m b := by
  unfold readWord
  dsimp only
  split <;> exact readStored_writeStored_ne m _ h

theorem memory_wf_readPlaces (r : Request) (upsets : List Bits39) (places : List Nat) {m : Memory}
    (h : Memory.wf m) : Memory.wf (readPlaces r upsets places m).memory := by
  induction places generalizing m with
  | nil => exact h
  | cons i rest ih =>
    rw [readPlaces]
    have hw := memory_wf_readWord (wordAddr r i) (upsets.getD i 0) h
    split
    · rename_i heq
      rw [heq] at hw
      exact hw
    · rename_i heq
      rw [heq] at hw
      exact ih hw

theorem memory_wf_mergePlaces (r : Request) (upsets : List Bits39) (places : List Nat) {m : Memory}
    (h : Memory.wf m) : Memory.wf (mergePlaces r upsets places m).memory := by
  induction places generalizing m with
  | nil => exact h
  | cons i rest ih =>
    rw [mergePlaces]
    have hw := memory_wf_readWord (wordAddr r i) (upsets.getD i 0) h
    split
    · rename_i heq
      rw [heq] at hw
      exact hw
    · rename_i heq
      rw [heq] at hw
      exact ih (memory_wf_writeStored _ _ hw)

theorem memory_wf_writePlaces (r : Request) (places : List Nat) {m : Memory}
    (h : Memory.wf m) : Memory.wf (writePlaces r places m).memory := by
  induction places generalizing m with
  | nil => exact h
  | cons i rest ih => exact ih (memory_wf_writeStored _ _ h)

/-- Performing words of a request keeps the canonical form of the array. -/
theorem memory_wf_performPlaces (r : Request) (upsets : List Bits39) (places : List Nat) {m : Memory}
    (h : Memory.wf m) : Memory.wf (performPlaces r upsets places m).memory := by
  unfold performPlaces
  split
  · exact memory_wf_readPlaces r upsets places h
  · split
    · exact memory_wf_writePlaces r places h
    · split
      · exact h
      · exact memory_wf_mergePlaces r upsets places h

/-- A scrub burst keeps the canonical form of the array. -/
theorem memory_wf_scrubPlaces (q : ScrubRequest) (places : List Nat) {m : Memory}
    (h : Memory.wf m) : Memory.wf (scrubPlaces q places m) := by
  unfold scrubPlaces
  induction places generalizing m with
  | nil => exact h
  | cons i rest ih => exact ih (memory_wf_writeStored _ _ h)

theorem readStored_readPlaces_ne (r : Request) (upsets : List Bits39) {b : Nat} (places : List Nat)
    (m : Memory) (h : ∀ i ∈ places, b ≠ wordAddr r i) :
    readStored (readPlaces r upsets places m).memory b = readStored m b := by
  induction places generalizing m with
  | nil => rfl
  | cons i rest ih =>
    have hi := readStored_readWord_ne m (upsets.getD i 0) (h i (by simp))
    rw [readPlaces]
    split
    · rename_i heq
      rw [heq] at hi
      exact hi
    · rename_i heq
      rw [heq] at hi
      rw [ih _ (fun j hj => h j (by simp [hj])), hi]

theorem readStored_mergePlaces_ne (r : Request) (upsets : List Bits39) {b : Nat} (places : List Nat)
    (m : Memory) (h : ∀ i ∈ places, b ≠ wordAddr r i) :
    readStored (mergePlaces r upsets places m).memory b = readStored m b := by
  induction places generalizing m with
  | nil => rfl
  | cons i rest ih =>
    have hi := readStored_readWord_ne m (upsets.getD i 0) (h i (by simp))
    rw [mergePlaces]
    split
    · rename_i heq
      rw [heq] at hi
      exact hi
    · rename_i heq
      rw [heq] at hi
      rw [ih _ (fun j hj => h j (by simp [hj])), writeWord,
        readStored_writeStored_ne _ _ (h i (by simp)), hi]

theorem readStored_writePlaces_ne (r : Request) {b : Nat} (places : List Nat)
    (m : Memory) (h : ∀ i ∈ places, b ≠ wordAddr r i) :
    readStored (writePlaces r places m).memory b = readStored m b := by
  induction places generalizing m with
  | nil => rfl
  | cons i rest ih =>
    rw [writePlaces, ih _ (fun j hj => h j (by simp [hj])), writeWord,
      readStored_writeStored_ne _ _ (h i (by simp))]

/-- Performing words of a request leaves every other word of the array alone. -/
theorem readStored_performPlaces_ne (r : Request) (upsets : List Bits39) {b : Nat} (places : List Nat)
    (m : Memory) (h : ∀ i ∈ places, b ≠ wordAddr r i) :
    readStored (performPlaces r upsets places m).memory b = readStored m b := by
  unfold performPlaces
  split
  · exact readStored_readPlaces_ne r upsets places m h
  · split
    · exact readStored_writePlaces_ne r places m h
    · split
      · rfl
      · exact readStored_mergePlaces_ne r upsets places m h

/-- A scrub burst leaves every other word of the array alone. -/
theorem readStored_scrubPlaces_ne (q : ScrubRequest) {b : Nat} (places : List Nat) (m : Memory)
    (h : ∀ i ∈ places, b ≠ scrubAddr q i) :
    readStored (scrubPlaces q places m) b = readStored m b := by
  unfold scrubPlaces
  induction places generalizing m with
  | nil => rfl
  | cons i rest ih =>
    rw [List.foldl_cons, ih _ (fun j hj => h j (by simp [hj])), writeWord,
      readStored_writeStored_ne _ _ (h i (by simp))]

/-! ### The directory -/

@[simp] theorem entry_putEntry_same (s : State) (f : Nat) (e : Entry) : (s.putEntry f e).entry f = e := by
  show (Sparse.find? (putDirectory s.dir f e) f).getD Entry.reset = e
  unfold putDirectory
  split
  · rename_i h
    rw [sparse_find_erase_same, h]
    rfl
  · rw [sparse_find_put_same]
    rfl

theorem entry_putEntry_ne (s : State) {f g : Nat} (e : Entry) (h : g ≠ f) :
    (s.putEntry f e).entry g = s.entry g := by
  show (Sparse.find? (putDirectory s.dir f e) g).getD Entry.reset = s.entry g
  unfold putDirectory State.entry
  split
  · rw [sparse_find_erase_ne _ h]
  · rw [sparse_find_put_ne _ _ h]

theorem entry_putEntry (s : State) (f g : Nat) (e : Entry) :
    (s.putEntry f e).entry g = if g = f then e else s.entry g := by
  by_cases h : g = f
  · subst h
    simp
  · rw [entry_putEntry_ne s e h, if_neg h]

/-- Replacing an entry keeps the canonical form of the directory. -/
theorem directory_wf_putDirectory {d : Directory} (f : Nat) (e : Entry) (h : Directory.wf d) :
    Directory.wf (putDirectory d f e) := by
  unfold putDirectory
  split
  · exact ⟨sparse_rising_erase f h.1, fun c hc => h.2 c (sparse_mem_erase.1 hc).1⟩
  · rename_i he
    refine ⟨sparse_rising_put f e h.1, fun c hc => ?_⟩
    rcases sparse_mem_put.1 hc with rfl | hc
    · exact he
    · exact h.2 c hc.1

/-- While the directory is empty every frame has the reset entry. -/
theorem entry_of_dir_nil {s : State} (h : s.dir = []) (f : Nat) : s.entry f = Entry.reset := by
  simp [State.entry, h, Sparse.find?]

/-! ### The maps -/

@[simp] theorem mapOf_setMap_same (u : PortUnit) (c : Context) (m : MapTable) :
    (u.setMap c m).mapOf c = m := by
  cases c <;> rfl

theorem mapOf_setMap_ne (u : PortUnit) {c d : Context} (m : MapTable) (h : d ≠ c) :
    (u.setMap c m).mapOf d = u.mapOf d := by
  cases c <;> cases d <;> first | rfl | exact absurd rfl h

end Sys2Proof.Laws
end

