-- ==== Sys2Proof/Laws/Frame.lean ====
section
/-! SUPPORT. What the shared operations can change, each said once: those of the directory (advancement,
recalls, records), and those of the memory port and its arbiter. -/

namespace Sys2Proof

open Sys2Proof.Machine Sys2Proof.Safety Sys2Proof.Laws

/-! ### Directory changes -/

theorem Safety.UnitDirectoryChange.trans {u v w : PortUnit} (h : UnitDirectoryChange u v)
    (k : UnitDirectoryChange v w) : UnitDirectoryChange u w := by
  unfold UnitDirectoryChange at *
  rw [h] at k
  exact k

theorem Safety.DirectoryChange.refl (s : State) : DirectoryChange s s := ⟨rfl, fun _ => rfl⟩

theorem Safety.DirectoryChange.trans {s t u : State} (h : DirectoryChange s t) (k : DirectoryChange t u) :
    DirectoryChange s u := by
  refine ⟨?_, fun p => (h.2 p).trans (k.2 p)⟩
  have k1 := k.1
  rw [h.1] at k1
  exact k1

/-- A change of one port's unit alone. -/
theorem Safety.DirectoryChange.of_setUnit {s : State} {p : Port} {u : PortUnit}
    (h : UnitDirectoryChange (s.unit p) u) : DirectoryChange s (s.setUnit p u) := by
  refine ⟨rfl, fun q => ?_⟩
  rw [setUnit_unit]
  split
  · rename_i e
    rw [e]
    exact h
  · rfl

end Sys2Proof

namespace Sys2Proof.Laws

open Sys2Proof.Machine Sys2Proof.Safety

theorem directoryChange_post (s : State) (p : Port) (r : EventRecord) :
    DirectoryChange s (s.post p r) :=
  DirectoryChange.of_setUnit (by rw [UnitDirectoryChange, postUnit_touches])

theorem directoryChange_postList (ps : List Port) (s : State) (r : EventRecord) :
    DirectoryChange s (s.postList ps r) := by
  induction ps generalizing s with
  | nil => exact DirectoryChange.refl s
  | cons p rest ih => exact (directoryChange_post s p r).trans (ih (s.post p r))

theorem directoryChange_postSet (s : State) (ps : PortSet) (r : EventRecord) :
    DirectoryChange s (s.postSet ps r) := directoryChange_postList _ _ _

theorem directoryChange_putEntry (s : State) (f : Nat) (e : Entry) :
    DirectoryChange s (s.putEntry f e) :=
  ⟨rfl, fun p => by rw [putEntry_unit]; rfl⟩

theorem directoryChange_returnRecord (s : State) (p : Port) : DirectoryChange s (s.returnRecord p) :=
  (DirectoryChange.of_setUnit (s := s) (p := p)
    (u := { s.unit p with waiting := (s.unit p).waiting - 1 }) rfl).trans ⟨rfl, fun _ => rfl⟩

theorem directoryChange_setRecalls (s : State) (v : Vector (Option RecallRec) 8) :
    DirectoryChange s { s with recalls := v } := ⟨rfl, fun _ => rfl⟩

theorem directoryChange_setDeferred (s : State) (l : List Deferred) :
    DirectoryChange s { s with deferred := l } := ⟨rfl, fun _ => rfl⟩

theorem directoryChange_startRecall (s : State) (f : Nat) (i : Fin 8) :
    DirectoryChange s (s.startRecall f i) := by
  unfold State.startRecall
  dsimp only
  split
  · exact DirectoryChange.refl s
  · exact ((directoryChange_setRecalls s _).trans (directoryChange_putEntry _ _ _)).trans
      (directoryChange_postSet _ _ _)

theorem directoryChange_deferRecall (s : State) (f : Nat) : DirectoryChange s (s.deferRecall f) := by
  unfold State.deferRecall
  dsimp only
  split
  · exact DirectoryChange.refl s
  · exact (directoryChange_setDeferred s _).trans (directoryChange_putEntry _ _ _)

theorem directoryChange_ensureRecall (s : State) (f : Nat) : DirectoryChange s (s.ensureRecall f) := by
  unfold State.ensureRecall
  split
  · split
    · exact directoryChange_startRecall s f _
    · exact directoryChange_deferRecall s f
  · exact DirectoryChange.refl s
  · exact DirectoryChange.refl s

theorem directoryChange_feedDeferred (i : Fin 8) (l : List Deferred) (s : State) :
    DirectoryChange s (State.feedDeferred i l s) := by
  induction l generalizing s with
  | nil => exact directoryChange_setDeferred s []
  | cons d rest ih =>
    rw [State.feedDeferred]
    split
    · exact (directoryChange_setDeferred s rest).trans (directoryChange_startRecall _ _ _)
    · exact (directoryChange_putEntry _ _ _).trans (ih _)

theorem directoryChange_dropRecall (s : State) (f : Nat) : DirectoryChange s (s.dropRecall f) := by
  unfold State.dropRecall
  dsimp only
  split
  · exact DirectoryChange.refl s
  · exact (directoryChange_setDeferred s _).trans (directoryChange_putEntry _ _ _)
  · exact ((directoryChange_setRecalls s _).trans (directoryChange_putEntry _ _ _)).trans
      (directoryChange_feedDeferred _ _ _)

theorem directoryChange_leaveToRelease (s : State) (f : Nat) (p : Port) :
    DirectoryChange s (s.leaveToRelease f p).1 := by
  unfold State.leaveToRelease
  split
  · exact DirectoryChange.refl s
  · split
    · dsimp only
      split
      · exact directoryChange_dropRecall s f
      · exact directoryChange_setRecalls s _
    · exact DirectoryChange.refl s

theorem directoryChange_grantHead (s : State) (f : Nat) (h : WaitRec) (forced upgraded : Bool) :
    DirectoryChange s (s.grantHead f h forced upgraded) :=
  (((((directoryChange_putEntry s f _).trans (directoryChange_returnRecord _ _)).trans
    (directoryChange_dropRecall _ _)).trans (directoryChange_putEntry _ _ _)).trans
    (directoryChange_post _ _ _))

theorem directoryChange_advanceFuel (forced : Bool) (f n : Nat) (s : State) :
    DirectoryChange s (State.advanceFuel forced f n s) := by
  induction n generalizing s with
  | zero => exact DirectoryChange.refl s
  | succ n ih =>
    have grant : ∀ h u, DirectoryChange s (State.advanceFuel forced f n (s.grantHead f h forced u)) :=
      fun h u => (directoryChange_grantHead s f h forced u).trans (ih _)
    rw [State.advanceFuel]
    split
    · exact DirectoryChange.refl s
    · split
      · exact grant _ _
      · exact grant _ _
      · exact grant _ _
      · split
        · exact grant _ _
        · split
          · exact DirectoryChange.refl s
          · exact directoryChange_ensureRecall s f
      · exact directoryChange_ensureRecall s f
      · exact DirectoryChange.refl s
      · exact DirectoryChange.refl s
      · exact DirectoryChange.refl s
      · exact DirectoryChange.refl s

/-- Advancement is a directory change (R34 to R38). -/
theorem directoryChange_advance (s : State) (forced : Bool) (f : Nat) :
    DirectoryChange s (s.advance forced f) := directoryChange_advanceFuel _ _ _ _

theorem directoryChange_afterLeaving (s : State) (forced : Bool) (f : Nat) :
    DirectoryChange s (s.afterLeaving forced f) := by
  unfold State.afterLeaving
  dsimp only
  split
  · split
    · exact (directoryChange_putEntry _ _ _).trans (directoryChange_advance _ _ _)
    · exact directoryChange_advance _ _ _
  · exact DirectoryChange.refl s

theorem directoryChange_leave (s : State) (f : Nat) (p : Port) : DirectoryChange s (s.leave f p).1 :=
  (directoryChange_putEntry s f _).trans (directoryChange_leaveToRelease _ _ _)

theorem directoryChange_withdraw (s : State) (f : Nat) (p : Port) :
    DirectoryChange s (s.withdraw f p) := by
  have h1 : DirectoryChange s ((s.putEntry f
      { s.entry f with queue := (s.entry f).queue.filter (fun w => w.port != p) }).returnRecord p) :=
    (directoryChange_putEntry s f _).trans (directoryChange_returnRecord _ _)
  unfold State.withdraw
  dsimp only
  split
  · exact (h1.trans (directoryChange_dropRecall _ _)).trans (directoryChange_advance _ _ _)
  · exact h1

theorem directoryChange_refuseWaiters (f : Nat) (q : List WaitRec) (s : State) :
    DirectoryChange s (State.refuseWaiters f q s) := by
  induction q generalizing s with
  | nil => exact DirectoryChange.refl s
  | cons w rest ih =>
    rw [State.refuseWaiters]
    exact ((directoryChange_returnRecord s w.port).trans (directoryChange_post _ _ _)).trans (ih _)

/-- Poisoning is a directory change (R116). -/
theorem directoryChange_poison (s : State) (f : Nat) (accessor : Option Port) :
    DirectoryChange s (s.poison f accessor) := by
  unfold State.poison
  dsimp only
  exact ((((directoryChange_putEntry s f _).trans (directoryChange_dropRecall _ _)).trans
    (directoryChange_postSet _ _ _)).trans (directoryChange_refuseWaiters _ _ _)).trans
    (directoryChange_putEntry _ _ _)

/-! ### What each operation does to the entry it works on -/

/-- Queuing records leaves every entry alone. -/
@[simp] theorem postList_entry (ps : List Port) (s : State) (r : EventRecord) (f : Nat) :
    (s.postList ps r).entry f = s.entry f := by
  induction ps generalizing s with
  | nil => rfl
  | cons p rest ih => exact (ih (s.post p r)).trans (post_entry s p r f)

@[simp] theorem postSet_entry (s : State) (ps : PortSet) (r : EventRecord) (f : Nat) :
    (s.postSet ps r).entry f = s.entry f := postList_entry _ _ _ _

@[simp] theorem returnRecord_entry (s : State) (p : Port) (f : Nat) :
    (s.returnRecord p).entry f = s.entry f := rfl

@[simp] theorem takeRecord_entry (s : State) (p : Port) (f : Nat) :
    (s.takeRecord p).entry f = s.entry f := rfl

/-- Two entries that differ at most in the recall field. -/
def RecallFieldChange (d e : Entry) : Prop := e = { d with recallField := e.recallField }

theorem RecallFieldChange.trans {c d e : Entry} (h : RecallFieldChange c d) (k : RecallFieldChange d e) :
    RecallFieldChange c e := by
  unfold RecallFieldChange at *
  rw [h] at k
  exact k

theorem recallFieldChange_put (s : State) (f g : Nat) (x : RecallField) :
    RecallFieldChange (s.entry g) ((s.putEntry f { s.entry f with recallField := x }).entry g) := by
  rw [entry_putEntry]
  split
  · rename_i h
    rw [h]
    rfl
  · rfl

/-- The recall unit changes entries in their recall fields alone: starting a recall. -/
theorem startRecall_entry (s : State) (f : Nat) (i : Fin 8) (g : Nat) :
    RecallFieldChange (s.entry g) ((s.startRecall f i).entry g) := by
  unfold State.startRecall
  dsimp only
  split
  · rfl
  · rw [postSet_entry]
    exact recallFieldChange_put ({ s with recalls := s.recalls.set i _ } : State) f g _

theorem deferRecall_entry (s : State) (f g : Nat) :
    RecallFieldChange (s.entry g) ((s.deferRecall f).entry g) := by
  unfold State.deferRecall
  dsimp only
  split
  · rfl
  · exact recallFieldChange_put ({ s with deferred := _ } : State) f g _

/-- Ensuring a recall changes entries in their recall fields alone. -/
theorem ensureRecall_entry (s : State) (f g : Nat) :
    RecallFieldChange (s.entry g) ((s.ensureRecall f).entry g) := by
  unfold State.ensureRecall
  split
  · split
    · exact startRecall_entry s f _ g
    · exact deferRecall_entry s f g
  · rfl
  · rfl

theorem feedDeferred_entry (i : Fin 8) (l : List Deferred) (s : State) (g : Nat) :
    RecallFieldChange (s.entry g) ((State.feedDeferred i l s).entry g) := by
  induction l generalizing s with
  | nil => rfl
  | cons d rest ih =>
    rw [State.feedDeferred]
    split
    · exact startRecall_entry ({ s with deferred := rest } : State) d.frame i g
    · exact (recallFieldChange_put s d.frame g .none).trans (ih _)

/-- Removing a recall changes entries in their recall fields alone (R58, R66). -/
theorem dropRecall_entry (s : State) (f g : Nat) :
    RecallFieldChange (s.entry g) ((s.dropRecall f).entry g) := by
  unfold State.dropRecall
  dsimp only
  split
  · rfl
  · exact recallFieldChange_put ({ s with deferred := _ } : State) f g _
  · exact (recallFieldChange_put ({ s with recalls := _ } : State) f g _).trans
      (feedDeferred_entry _ _ _ g)

/-! ### Memory port changes -/

/-- A port unit changes at most in its event queue, OVERRUN, its maps, its request and its answer. -/
def UnitPortChange (u v : PortUnit) : Prop :=
  v = { u with events := v.events, overrun := v.overrun, map0 := v.map0, map1 := v.map1,
               request := v.request, answer := v.answer }

/-- A state changes at most in the memory port, the arbiter's pointer, the refresh in progress or due, the
scrub engine's waiting request, and in its port units as a memory port change. -/
def PortChange (s t : State) : Prop :=
  t = { s with memPort := t.memPort, arbiter := t.arbiter, refreshDue := t.refreshDue,
               refreshEnd := t.refreshEnd, scrubRequest := t.scrubRequest, ports := t.ports } ∧
    ∀ p, UnitPortChange (s.unit p) (t.unit p)

theorem UnitPortChange.trans {u v w : PortUnit} (h : UnitPortChange u v) (k : UnitPortChange v w) :
    UnitPortChange u w := by
  unfold UnitPortChange at *
  rw [h] at k
  exact k

theorem PortChange.refl (s : State) : PortChange s s := ⟨rfl, fun _ => rfl⟩

theorem PortChange.trans {s t u : State} (h : PortChange s t) (k : PortChange t u) : PortChange s u := by
  refine ⟨?_, fun p => (h.2 p).trans (k.2 p)⟩
  have k1 := k.1
  rw [h.1] at k1
  exact k1

theorem PortChange.of_setUnit {s : State} {p : Port} {u : PortUnit}
    (h : UnitPortChange (s.unit p) u) : PortChange s (s.setUnit p u) := by
  refine ⟨rfl, fun q => ?_⟩
  rw [setUnit_unit]
  split
  · rename_i e
    rw [e]
    exact h
  · rfl

theorem portChange_post (s : State) (p : Port) (r : EventRecord) : PortChange s (s.post p r) :=
  PortChange.of_setUnit (by rw [UnitPortChange, postUnit_touches])

theorem portChange_answerBus (s : State) (p : Port) (error : Bool) (data : List Word) :
    PortChange s (s.answerBus p error data) := PortChange.of_setUnit rfl

theorem unitPortChange_setMap (u : PortUnit) (c : Context) (m : MapTable) :
    UnitPortChange u (u.setMap c m) := by
  cases c <;> rfl

theorem portChange_repair (s : State) (r : Request) (cause : FaultCause) :
    PortChange s (s.repair r cause) := by
  unfold State.repair
  split
  · exact PortChange.refl s
  · split
    · split
      · exact PortChange.of_setUnit (unitPortChange_setMap _ _ _)
      · exact PortChange.of_setUnit (unitPortChange_setMap _ _ _)
      · exact PortChange.refl s
    · exact PortChange.refl s

theorem portChange_serveWindow (s : State) (r : Request) : PortChange s (s.serveWindow r).1 := by
  unfold State.serveWindow
  split
  · exact ((portChange_repair s r _).trans (portChange_post _ _ _)).trans (portChange_answerBus _ _ _ _)
  · split
    · exact portChange_answerBus _ _ _ _
    · exact ⟨rfl, fun _ => rfl⟩

theorem portChange_beginRefresh (s : State) : PortChange s s.beginRefresh := ⟨rfl, fun _ => rfl⟩

theorem portChange_takeWaiting (s : State) (q : Requester) : PortChange s (s.takeWaiting q) := by
  unfold State.takeWaiting
  cases q with
  | port p => exact (PortChange.of_setUnit (s := s) (p := p)
      (u := { s.unit p with request := none }) rfl).trans ⟨rfl, fun _ => rfl⟩
  | scrub => exact ⟨rfl, fun _ => rfl⟩

theorem portChange_arbitrateFuel (n : Nat) (s : State) : PortChange s (State.arbitrateFuel n s) := by
  induction n generalizing s with
  | zero => exact ⟨rfl, fun _ => rfl⟩
  | succ n ih =>
    rw [State.arbitrateFuel]
    split
    · exact ⟨rfl, fun _ => rfl⟩
    · exact (portChange_takeWaiting s _).trans ⟨rfl, fun _ => rfl⟩
    · rename_i q r _ _
      have h := (portChange_takeWaiting s q).trans (portChange_serveWindow (s.takeWaiting q) r)
      dsimp only
      split
      · split
        · exact h.trans (portChange_beginRefresh _)
        · exact h.trans (ih _)
      · exact h

/-- The arbiter's choice is a memory port change: it writes neither the array nor the directory (R102). -/
theorem portChange_arbitrate (s : State) : PortChange s s.arbitrate := portChange_arbitrateFuel 5 s

theorem portChange_posted (s : State) : PortChange s s.posted := by
  unfold State.posted
  split
  · exact portChange_arbitrate s
  · exact PortChange.refl s

theorem portChange_afterService (s : State) : PortChange s s.afterService := by
  unfold State.afterService
  split
  · exact portChange_beginRefresh s
  · exact portChange_arbitrate s

/-- A held access becomes the port's waiting request, and nothing else changes (R101, log 20). -/
theorem postHeld_eq (s : State) (p : Port) :
    s.postHeld p =
      s.setUnit p { s.unit p with request := (s.unit p).held.or (s.unit p).request, held := none } := by
  have unchanged : ∀ u : PortUnit, u.held = none →
      { u with request := u.held.or u.request, held := none } = u := by
    rintro ⟨⟩ h
    cases h
    rfl
  unfold State.postHeld
  split
  · rename_i h
    rw [unchanged _ h, setUnit_unit_self]
  · rename_i h
    rw [h]
    rfl

/-! ### The deferred list -/

/-- A deferred frame stands behind every smaller sequence number and before every greater one (R56). -/
theorem placeDeferred_between {d : Deferred} {older newer : List Deferred}
    (ho : ∀ x ∈ older, x.seq.toNat < d.seq.toNat) (hn : ∀ x ∈ newer, d.seq.toNat < x.seq.toNat) :
    placeDeferred d (older ++ newer) = older ++ d :: newer := by
  induction older with
  | nil =>
    cases newer with
    | nil => rfl
    | cons x t => simp [placeDeferred, hn x]
  | cons x t ih =>
    have h := ho x (by simp)
    simp [placeDeferred, Nat.not_lt_of_gt h, ih (fun y hy => ho y (by simp [hy]))]

/-- The oldest deferred frame has its recall started where it needs one (R58). -/
theorem feedDeferred_needed {i : Fin 8} {d : Deferred} {rest : List Deferred} {s : State}
    (h : needsRecall (s.entry d.frame) = true) :
    State.feedDeferred i (d :: rest) s = ({ s with deferred := rest } : State).startRecall d.frame i := by
  simp [State.feedDeferred, h]

/-- A deferred frame that needs no recall is dropped, and the next is looked at (R58). -/
theorem feedDeferred_dropped {i : Fin 8} {d : Deferred} {rest : List Deferred} {s : State}
    (h : needsRecall (s.entry d.frame) = false) :
    State.feedDeferred i (d :: rest) s =
      State.feedDeferred i rest (s.putEntry d.frame { s.entry d.frame with recallField := .none }) := by
  simp [State.feedDeferred, h]

end Sys2Proof.Laws
end

