-- ==== Sys2Proof/Tests/Slice0.lean ====
section
/-! SUPPORT. Tests of single steps against the spec's own worked values, ill-formed commands that WellFormed
refuses, and for each statement with hypotheses a state that meets them. -/

namespace Sys2Proof.Tests

open Sys2Proof.Machine Sys2Proof.Safety

/-! ### WellFormed -/

theorem test_wf_refuses_bad_command_with_a_code_of_the_table :
    (Instr.badCommand .P0 0x10).wellFormed = false := by decide

theorem test_wf_refuses_register_write_of_the_command_word :
    (Instr.registerWrite .P0 8 0x10).wellFormed = false := by decide

theorem test_wf_refuses_register_write_beyond_word_63 :
    (Instr.registerWrite .P0 64 0).wellFormed = false := by decide

theorem test_wf_refuses_control_error_inside_the_region :
    (Instr.controlAccessError .P0 .read 0x1000FC 1).wellFormed = false := by decide

theorem test_wf_refuses_control_error_in_the_window :
    (Instr.controlAccessError .P0 .read 0x0FFFFC 8).wellFormed = false := by decide

theorem test_wf_refuses_control_error_of_nine_words :
    (Instr.controlAccessError .P0 .read 0x100100 9).wellFormed = false := by decide

theorem test_wf_refuses_window_access_in_the_control_region :
    (Instr.windowAccess .P0 .read 0x100000 1 0xF []).wellFormed = false := by decide

theorem test_wf_refuses_window_access_of_no_word :
    (Instr.windowAccess .P0 .read 0 0 0xF []).wellFormed = false := by decide

theorem test_wf_refuses_window_read_with_data :
    (Instr.windowAccess .P0 .read 0 1 0xF [0]).wellFormed = false := by decide

theorem test_wf_refuses_window_write_short_of_data :
    (Instr.windowAccess .P0 .write 0 2 0xF [0]).wellFormed = false := by decide

/-! ### Codes (R197) -/

theorem test_codes_of_the_families :
    issueOf .P0 0x01 = .attach .P0 ∧ issueOf .P1 0x10 = .claim .P1 ∧ issueOf .P2 0x24 = .probePage .P2 ∧
      issueOf .P3 0x32 = .releaseAuthority .P3 ∧ issueOf .P0 0x48 = .setParameter .P0 ∧
      issueOf .P0 0x49 = .badCommand .P0 0x49 ∧ issueOf .P0 0x10010 = .badCommand .P0 0x10010 := by
  decide

/-! ### Small states -/

/-- An ONLINE port unit. -/
def on : PortUnit := { PortUnit.reset false with online := true }

/-- An ONLINE port unit with these argument words. -/
def withArgs (a b c d : Nat) : PortUnit :=
  { on with args := ⟨BitVec.ofNat 32 a, BitVec.ofNat 32 b, BitVec.ofNat 32 c, BitVec.ofNat 32 d⟩ }

/-- A part of 4096 frames out of reset, at 100 us, the start-up sweep over but for the frames that a test
does not look at. P0 to P2 are ONLINE, P0 has these arguments and holds the token, and one frame has this
entry. -/
def seat (f : Nat) (e : Entry) (a b c d : Nat) : State :=
  { State.reset with
    rstAsserted := false, now := 100, frames := 4096, dir := [(f, e)], token := some .P0,
    leaseDeadline := 200, ports := ⟨withArgs a b c d, on, on, PortUnit.reset false⟩ }

/-- A frame held PRIVATE. -/
def heldBy (p : Port) : Entry := { Entry.reset with state := .priv, holders := onePort p }

/-- A frame shared by a set. -/
def sharedBy (ps : PortSet) : Entry := { Entry.reset with state := .shared, holders := ps }

/-- A frame in a state, without holders. -/
def inState (st : FrameState) : Entry := { Entry.reset with state := st }

/-- P0 and P1. -/
def p01 : PortSet := ⟨true, true, false, false⟩

/-- The state a command leaves; the second arm is never met (no command stops). -/
def after (i : Instr) (s : State) : State :=
  match exec i s with
  | .next t => t
  | _ => s

/-! ### Worked values of the spec -/

/-- Spec 10.5: P3 claims frame 1200, held PRIVATE by P1, behind one waiter. -/
theorem test_claim_queued_words :
    ((after (.claim .P3)
        { seat 1200 { heldBy .P1 with queue := [⟨.P2, .shared, 1, 0⟩], recallField := .deferred } 0 0 0 0 with
          poolFree := 21, ports := ⟨on, on, on, { withArgs 1200 1 9 0 with waiting := 2 }⟩ }).unit .P3).results
      = ⟨0x00000001, 0x000604B0, 0x00000209, 0x00001403⟩ := by decide

/-- Spec 10.5: P0, OFFLINE, probes the frame of the illustration of R18. -/
theorem test_probe_frame_words :
    ((after (.probeFrame .P0)
        { seat 300
            { sharedBy (onePort .P2) with
              queue := [⟨.P1, .priv, 0, 0⟩, ⟨.P3, .priv, 0, 1⟩], recallField := .active 5 } 0 0 0 0 with
          recalls := (Vector.replicate 8 none).set 5 (some ⟨300, .P1, .priv, onePort .P2, 7100⟩),
          ports := ⟨{ withArgs 300 0 0 0 with online := false }, on, on, on⟩ }).unit .P0).results
      = ⟨0, 0x00000043, 0x00000B02, 0x00100AF1⟩ := by decide

/-- Spec 10.5: the FAULT record of the uncorrectable read of R115, and the GRANT record of 2.4. -/
theorem test_record_words :
    recordWords (.fault 0x30F4C .c0 .read 8 .uncorrectable) = ⟨6, 0x00030F4C, 0, 0x00000708⟩ ∧
      recordWords (.grant 77 .shared 5 false false false) = ⟨1, 77, 5, 2⟩ := by decide

/-- R60: a recall with 7000 us left reads 700, with 5 us or 10 us left 1. -/
theorem test_remaining_time :
    remainingTime 3000 10000 = 700 ∧ remainingTime 9995 10000 = 1 ∧ remainingTime 9990 10000 = 1 := by decide

/-- R110: a read through page 97 mapped to frame 1200 at word offset 464. -/
theorem test_word_address :
    wordAddr ⟨.P0, .read, 1200, 464, 8, 0xF, [], .c0, 97, 0⟩ 0 = 0x258740 ∧
      wordAddr ⟨.P0, .read, 1200, 464, 8, 0xF, [], .c0, 97, 0⟩ 7 = 0x25875C := by decide

/-- Spec 11.1 event 1: P1 claims frame 1500, held PRIVATE by P0: a recall of 10 000 us, and a RECALL record. -/
theorem test_claim_starts_recall :
    let t := after (.claim .P1)
      { seat 1500 (heldBy .P0) 0 0 0 0 with
        ports := ⟨on, withArgs 1500 1 4 0, on, on⟩ }
    t.recalls.get 0 = some ⟨1500, .P1, .priv, onePort .P0, 10100⟩ ∧
      (t.unit .P0).events = [.recallNotice 1500 .P1 .priv 1000] ∧
      (t.unit .P1).results.w3 = 0x1F01 ∧ t.recallPending .P0 = true := by decide

/-- The state of 11.1 before event 4: P1 waits, and a recall asks P0. -/
def recalling : State :=
  { seat 1500 { heldBy .P0 with queue := [⟨.P1, .priv, 4, 0⟩], recallField := .active 0 } 1500 0 0 0 with
    recalls := (Vector.replicate 8 none).set 0 (some ⟨1500, .P1, .priv, onePort .P0, 10100⟩),
    poolFree := 31, arrival := 1,
    ports := ⟨{ withArgs 1500 0 0 0 with holding := 1 }, { on with waiting := 1 }, on, PortUnit.reset false⟩ }

/-- Spec 11.1 event 4: P0 releases; P1 holds the frame, with a GRANT record whose EVENT3 reads 1. -/
theorem test_release_answers_recall :
    let t := after (.release .P0) recalling
    (t.entry 1500).holders = onePort .P1 ∧ t.recalls.get 0 = none ∧ t.poolFree = 32 ∧
      t.controlRead .P1 19 = 1 ∧ (t.unit .P0).results = ⟨0, 0x000085DC, 2, 1⟩ := by decide

/-- Spec 11.2 event 2: the recall runs out; P0 is revoked and P1's GRANT record is forced (EVENT3 0x101). -/
theorem test_recall_deadline :
    let t := after (.recallDeadline 1500) { recalling with now := 10100 }
    (t.entry 1500).holders = onePort .P1 ∧ (t.unit .P0).events = [.revoked 1500 .timeout] ∧
      t.controlRead .P1 19 = 0x101 ∧ t.recallPending .P0 = false := by decide

/-- Spec 11.2 events 4 and 5: a read through the stale entry faults STALE at its grant and clears the entry. -/
theorem test_stale_access :
    let t := after (.windowAccess .P0 .read 0x6000 2 0xF [])
      { seat 1500 (heldBy .P1) 0 0 0 0 with
        ports := ⟨{ on with map0 := [(12, ⟨1500, true⟩)] }, on, on, on⟩ }
    (t.unit .P0).events = [.fault 0x6000 .c0 .read 2 .stale] ∧ t.mapEntry .P0 .c0 12 = none ∧
      (t.unit .P0).answer = some ⟨true, []⟩ ∧ t.arbiter = .port .P1 := by decide

/-- R112: of a partial write with the lowest byte enabled, the third word uncorrectable, two words are
written. -/
theorem test_partial_write_stops :
    let r : Request := ⟨.P0, .write, 20, 0, 4, 1, [0x11, 0x22, 0x33, 0x44], .c0, 0, 0⟩
    let b := performBurst r [0, 0, 3]
      [(40960, ⟨0xAAAAAA00, 0⟩), (40964, ⟨0xBBBBBB00, 0⟩), (40968, ⟨5, 0⟩), (40972, ⟨6, 0⟩)]
    b.failedAt = some 2 ∧
      b.memory = [(40960, ⟨0xAAAAAA11, 0⟩), (40964, ⟨0xBBBBBB22, 0⟩), (40968, ⟨5, 3⟩), (40972, ⟨6, 0⟩)] := by
  decide

/-! ### One step of each other command -/

theorem test_rstn_release_strap :
    (after (.rstnRelease 2) State.reset).frames = 4096 ∧
      (after (.rstnRelease 2) State.reset).memPort = .serving (.scrub ⟨0, 0⟩) := by decide

theorem test_part_reset_clears :
    (after .partReset recalling).entry 1500 = Entry.reset ∧
      (after .partReset recalling).recalls.get 0 = none ∧ (after .partReset recalling).token = none := by
  decide

theorem test_prstn_release_serves_bus :
    (after (.prstnRelease .P3) { seat 0 Entry.reset 0 0 0 0 with
      ports := ⟨on, on, on, PortUnit.reset true⟩ }).busServed .P3 = true := by decide

/-- R166, R199. -/
theorem test_attach_words :
    ((after (.attach .P3) (seat 0 Entry.reset 0 0 0 0)).unit .P3).results = ⟨0, 3, 4096, 0⟩ := by decide

/-- R167: a port that holds a frame is refused HOLDING with its count. -/
theorem test_detach_holding :
    ((after (.detach .P0) recalling).unit .P0).results = ⟨12, 1, 0, 0⟩ := by decide

/-- R47: the cancel of the head removes the recall. -/
theorem test_cancel_head :
    let t := after (.cancel .P1)
      { recalling with
        ports := ⟨{ on with holding := 1 }, { withArgs 1500 0 0 0 with waiting := 1 }, on, on⟩ }
    (t.entry 1500).queue = [] ∧ t.recalls.get 0 = none ∧
      (t.unit .P1).results = ⟨0, 0x000145DC, 4, 0⟩ := by decide

theorem test_select_context :
    ((after (.selectContext .P0) (seat 0 Entry.reset 1 0 0 0)).unit .P0).results = ⟨0, 2, 0, 0⟩ := by decide

/-- R78: a read-write entry of a frame held SHARED is refused STATE. -/
theorem test_map_set_shared :
    ((after (.mapSet .P0) (seat 9 (sharedBy p01) 0 511 9 1)).unit .P0).results = ⟨13, 0, 0, 0⟩ := by decide

/-- R81: valid, frame 9, read-write is 1 + 2 * 9 + 32768. -/
theorem test_map_clear_words :
    ((after (.mapClear .P0)
        { seat 0 Entry.reset 0 0 0 0 with
          ports := ⟨{ withArgs 1 511 0 0 with map1 := [(511, ⟨9, true⟩)] }, on, on, on⟩ }).unit .P0).results
      = ⟨0, 0x3FF, 0x8013, 0⟩ := by decide

theorem test_map_clear_all :
    ((after (.mapClearAll .P0)
        { seat 0 Entry.reset 0 0 0 0 with
          ports := ⟨{ withArgs 0 0 0 0 with map0 := [(1, ⟨9, true⟩), (2, ⟨9, true⟩)] }, on, on, on⟩ }).unit
        .P0).map0 = [] := by decide

/-- R83: through a read-write entry of a frame held SHARED a write would meet WRITE_SHARED: read only. -/
theorem test_probe_page_words :
    ((after (.probePage .P0)
        { seat 9 (sharedBy p01) 0 0 0 0 with
          ports := ⟨{ withArgs 0 3 0 0 with map0 := [(3, ⟨9, true⟩)] }, on, on, on⟩ }).unit .P0).results
      = ⟨0, 0x8013, 0x141, 0x23⟩ := by decide

/-- R141: the token of another port is refused BUSY. -/
theorem test_acquire_busy :
    ((after (.acquireAuthority .P1) (seat 0 Entry.reset 0 0 0 0)).unit .P1).results = ⟨6, 0, 0, 0⟩ := by
  decide

/-- R143: t + 250 ms. -/
theorem test_renew_deadline :
    (after (.renewAuthority .P0) (seat 0 Entry.reset 0 0 0 0)).leaseDeadline = 250100 := by decide

theorem test_release_authority :
    (after (.releaseAuthority .P0) (seat 0 Entry.reset 0 0 0 0)).token = none := by decide

/-- R149: the GRANT record of an ASSIGN has tag 0 and the assigned flag. -/
theorem test_assign_record :
    ((after (.assign .P0) (seat 9 (inState .free) 9 1 2 0)).unit .P1).events
      = [.grant 9 .shared 0 false true false] := by decide

theorem test_force_release_frees :
    let t := after (.forceRelease .P0) (seat 9 (heldBy .P1) 9 1 0 0)
    (t.entry 9).state = .free ∧ (t.unit .P1).events = [.revoked 9 .authority] := by decide

theorem test_pin_and_unpin :
    ((after (.pin .P0) (seat 9 (heldBy .P1) 9 0 0 0)).entry 9).pinned = true ∧
      ((after (.unpin .P0) (seat 9 { heldBy .P1 with pinned := true } 9 0 0 0)).entry 9).pinned = false := by
  decide

theorem test_scrub_poisoned :
    let t := after (.scrub .P0) (seat 9 { inState .poisoned with holders := onePort .P1 } 9 0 0 0)
    (t.entry 9).state = .scrubbing ∧ (t.unit .P1).events = [.revoked 9 .scrub] ∧
      t.memPort = .serving (.scrub ⟨9, 0⟩) := by decide

theorem test_unquarantine_grants :
    ((after (.unquarantine .P0)
        (seat 9 { inState .quarantined with queue := [⟨.P2, .shared, 1, 0⟩] } 9 0 0 0)).entry 9).state
      = .shared := by decide

theorem test_map_for_another_port :
    (after (.mapSetFor .P0) (seat 9 (heldBy .P1) 1 0 7 (9 + 65536))).mapEntry .P1 .c0 7 = some ⟨9, true⟩ ∧
      ((after (.mapClearFor .P0) (seat 9 (heldBy .P1) 3 0 7 0)).unit .P0).results = ⟨3, 0, 0, 0⟩ := by
  decide

/-- R148: a lease of 20 set at t ends at t + 20 ms. -/
theorem test_set_parameter :
    (after (.setParameter .P0) (seat 0 Entry.reset 1 20 0 0)).leaseDeadline = 20100 := by decide

theorem test_bad_command :
    ((after (.badCommand .P3 0x99) (seat 0 Entry.reset 0 0 0 0)).unit .P3).results = ⟨2, 0, 0, 0⟩ := by decide

theorem test_control_writes :
    ((after (.portStatusWrite .P0 0xFFFFFFF7)
        { seat 0 Entry.reset 0 0 0 0 with ports := ⟨{ on with overrun := true }, on, on, on⟩ }).unit
        .P0).overrun = true ∧
      ((after (.intEnableWrite .P0 2) (seat 0 Entry.reset 0 0 0 0)).unit .P0).intEnable = false ∧
      ((after (.registerWrite .P0 7 5) (seat 0 Entry.reset 0 0 0 0)).unit .P0).args.w3 = 5 ∧
      ((after (.controlAccessError .P0 .write 0x1000F0 5) (seat 0 Entry.reset 0 0 0 0)).unit .P0).answer
        = some ⟨true, []⟩ := by decide

theorem test_event_pop :
    ((after (.eventPop .P0 0)
        { seat 0 Entry.reset 0 0 0 0 with
          ports := ⟨{ on with events := [.scrubDone 1, .scrubDone 2] }, on, on, on⟩ }).unit .P0).events
      = [.scrubDone 2] := by decide

theorem test_refresh_events :
    (after .refreshTimerExpiry (seat 0 Entry.reset 0 0 0 0)).memPort = .refresh ∧
      (after .refreshComplete { seat 0 Entry.reset 0 0 0 0 with memPort := .refresh, refreshEnd := 100 }).memPort
        = .idle := by decide

theorem test_lease_expiry :
    let t := after .authorityLeaseExpiry { seat 0 Entry.reset 0 0 0 0 with now := 200 }
    t.token = none ∧ (t.unit .P0).events = [.authorityLapsed] := by decide

/-- R173, R160: P0's PRIVATE frame is quarantined at its reset, and the waiter is told. -/
theorem test_port_reset_quarantines :
    ((after (.portReset .P0) recalling).unit .P0) = PortUnit.reset true ∧
      (after (.portReset .P0) { recalling with dir := [] }).token = none := by decide

/-- The scrub burst 63 of the last frame: it is FREE, and the engine IDLE. -/
theorem test_scrub_completes :
    let t := after .scrubBurstComplete
      { seat 9 (inState .scrubbing) 0 0 0 0 with
        memPort := .serving (.scrub ⟨9, 63⟩), scrubQueue := [⟨9, .command, some .P1⟩], burst := 63,
        uninitCount := 0 }
    (t.entry 9).state = .free ∧ (t.unit .P1).events = [.scrubDone 9] ∧ t.memPort = .idle := by decide

/-- R116: a read of two failed bits poisons the frame; the holder that reads is told after its FAULT. -/
theorem test_uncorrectable_poisons :
    let t := after (.uncorrectableError [0, 3])
      { seat 9 (heldBy .P0) 0 0 0 0 with
        memPort := .serving (.window ⟨.P0, .read, 9, 0, 2, 0xF, [], .c0, 0, 0⟩ false) }
    (t.entry 9).state = .poisoned ∧
      (t.unit .P0).events = [.fault 4 .c0 .read 2 .uncorrectable, .poisoned 9] ∧
      (t.unit .P0).answer = some ⟨true, [0]⟩ := by decide

/-! ### States that meet the hypotheses of the statements

Each theorem is named after its statement. Frame 4095 is the last of the part, page 511 the last page, tag
255 the last tag. -/

/-- Right after reset, with a release of RSTn waiting. -/
def booting : State := { State.reset with pending := [.rstnRelease 3] }

theorem booting_entry (f : Nat) : booting.entry f = Entry.reset := Laws.entry_of_dir_nil rfl f

theorem booting_unit (p : Port) : booting.unit p = PortUnit.reset false := by
  cases p <;> rfl

theorem booting_recalls (i : Fin 8) : booting.recalls.get i = none := by
  revert i
  decide

theorem witness_StepRunsFrontCommand : booting.pending = .rstnRelease 3 :: [] := rfl

theorem witness_IdleStepLetsTimePass :
    (State.reset.pending = [] ∧ State.reset.rstAsserted = true) ∧
      (seat 0 Entry.reset 0 0 0 0).pending = [] ∧ (seat 0 Entry.reset 0 0 0 0).rstAsserted = false := by
  decide

theorem witness_PartResetClearsPart :
    (Memory.wf State.reset.memory ∧ State.reset.memPort = .idle) ∧
      (∃ (s : State) (r : Request) (d : Bool),
        s.memPort = .serving (.window r d) ∧ ∀ i < r.burst, 0 ≠ wordAddr r i) ∧
      ∃ (s : State) (q : ScrubRequest), s.memPort = .serving (.scrub q) ∧ ∀ i < 8, 0 ≠ scrubAddr q i :=
  ⟨by decide,
    ⟨{ State.reset with memPort := .serving (.window ⟨.P0, .read, 1, 0, 8, 0xF, [], .c0, 0, 0⟩ false) },
      ⟨.P0, .read, 1, 0, 8, 0xF, [], .c0, 0, 0⟩, false, rfl, by decide⟩,
    { State.reset with memPort := .serving (.scrub ⟨1, 0⟩) }, ⟨1, 0⟩, rfl, by decide⟩

theorem booting_steps : ∃ t, step booting = .next t := ⟨_, rfl⟩

theorem witness_StepKeepsCanonicalForms : Canonical booting ∧ ∃ t, step booting = .next t := by
  refine ⟨⟨Laws.reset_memory_wf, by decide, fun p => ?_⟩, booting_steps⟩
  rw [booting_unit]
  decide

theorem witness_StepKeepsQueueBounds : QueuesBounded booting ∧ ∃ t, step booting = .next t := by
  refine ⟨fun p => ?_, booting_steps⟩
  rw [booting_unit]
  decide

/-- P0 was reset during its burst and has attached again: its new access waits to be posted (log 20). -/
def rejoined : State :=
  { seat 9 (heldBy .P0) 0 0 0 0 with
    memPort := .serving (.window ⟨.P0, .read, 9, 0, 1, 0xF, [], .c0, 0, 0⟩ true),
    ports := ⟨{ on with held := some ⟨.P0, .read, 9, 4, 1, 0xF, [], .c0, 0, 16⟩ }, on, on,
      PortUnit.reset false⟩,
    pending := [.windowRequestComplete []] }

/-- R101: the access that waited is posted and served when the old request completes. -/
theorem test_held_access_is_served :
    let t := after (.windowRequestComplete []) rejoined
    t.memPort = .serving (.window ⟨.P0, .read, 9, 4, 1, 0xF, [], .c0, 0, 16⟩ false) ∧
      (t.unit .P0).held = none ∧ (t.unit .P0).request = none := by decide

theorem witness_StepKeepsIdlePortWithoutWork_oneRequest :
    OneRequestEach rejoined ∧ ∃ t, step rejoined = .next t := by
  refine ⟨fun p => ?_, _, rfl⟩
  cases p
  · refine ⟨fun _ => rfl, fun _ => ⟨_, rfl, rfl⟩, fun r h => ?_⟩
    rcases h with h | h
    · exact nomatch h
    · cases h
      rfl
  all_goals
    refine ⟨fun _ => rfl, fun h => absurd rfl h, fun r h => ?_⟩
    rcases h with h | h <;> exact nomatch h

theorem witness_StepKeepsIdlePortWithoutWork : IdleHasNoWork booting ∧ ∃ t, step booting = .next t := by
  refine ⟨fun _ => ⟨rfl, rfl, fun p => ?_⟩, booting_steps⟩
  rw [booting_unit]
  rfl

theorem booting_resetHolds : ResetHolds booting := by
  refine fun _ => ⟨rfl, rfl, rfl, rfl, rfl, rfl, rfl, rfl, fun p => ?_⟩
  rw [booting_unit]
  decide

theorem witness_StepKeepsSweepStatus :
    (SweepStatusRight booting ∧ ResetHolds booting) ∧ ∃ t, step booting = .next t :=
  ⟨⟨⟨by decide, by decide⟩, booting_resetHolds⟩, booting_steps⟩

/-- The entries of the state of 11.1. -/
theorem recalling_entry (f : Nat) :
    recalling.entry f = if f = 1500 then
      { heldBy .P0 with queue := [⟨.P1, .priv, 4, 0⟩], recallField := .active 0 } else Entry.reset := by
  show (Sparse.find? [(1500, _)] f).getD Entry.reset = _
  rw [Sparse.find?]
  split <;> rfl

theorem recalling_directorySound : DirectorySound recalling := by
  refine ⟨fun f => ?_, ⟨by decide, by decide, fun f => ?_⟩, fun h => absurd h (by decide)⟩
  · rw [recalling_entry]
    split
    · exact ⟨⟨.P0, rfl⟩, by decide, by decide⟩
    · exact ⟨rfl, by decide, by decide⟩
  · rw [recalling_entry]
    constructor
    · intro h
      split at h <;> exact absurd h (by decide)
    · intro h
      exact absurd h (by simp [recalling, seat, State.reset, State.afterPartReset])

theorem recalling_recalls (i : Fin 8) :
    recalling.recalls.get i = if i = 0 then some ⟨1500, .P1, .priv, onePort .P0, 10100⟩ else none := by
  revert i
  decide

theorem witness_StepKeepsDirectorySound :
    (Directory.wf recalling.dir ∧ DirectorySound recalling) ∧ ∃ t, step recalling = .next t :=
  ⟨⟨by decide, recalling_directorySound⟩, _, rfl⟩

theorem witness_StepKeepsRecallsSound :
    (Directory.wf recalling.dir ∧ DirectorySound recalling ∧ RecallsSound recalling) ∧
      ∃ t, step recalling = .next t := by
  refine ⟨⟨by decide, recalling_directorySound, ?_, ?_, ⟨?_, by decide, ?_⟩, ?_, by decide⟩, _, rfl⟩
  · intro f
    rw [recalling_entry]
    split <;> decide
  · intro i r h
    rw [recalling_recalls] at h
    split at h
    · rename_i hi
      subst hi
      injection h with h
      subst h
      rw [recalling_entry, if_pos rfl]
      refine ⟨rfl, rfl, ⟨_, _, rfl, rfl, rfl, rfl⟩, by decide, fun p hp => ?_⟩
      cases p <;> first | rfl | exact absurd hp (by decide)
    · cases h
  · intro f i h
    rw [recalling_entry] at h
    split at h
    · rename_i hf
      injection h with h
      subst h
      exact ⟨_, rfl, hf.symm⟩
    · cases h
  · intro f
    rw [recalling_entry]
    constructor
    · intro h
      split at h <;> cases h
    · intro h
      exact absurd h (by simp [recalling, seat, State.reset, State.afterPartReset])
  · intro f h
    rw [recalling_entry] at h ⊢
    split at h
    · rename_i hf
      rw [if_pos hf]
      decide
    · exact absurd h (by decide)

theorem witness_StepKeepsQueueBounds_offline :
    (Directory.wf recalling.dir ∧ DirectorySound recalling ∧ RecallsSound recalling ∧
      HoldingCountsRight recalling ∧ OfflineHoldsNothing recalling ∧ (recalling.unit .P3).online = false) ∧
      ∃ t, step recalling = .next t := by
  refine ⟨⟨by decide, recalling_directorySound, witness_StepKeepsRecallsSound.1.2.2,
    fun p => by cases p <;> rfl, fun p h => ?_, rfl⟩, _, rfl⟩
  have hp : p = .P3 := by cases p <;> first | rfl | exact absurd h (by decide)
  subst hp
  refine ⟨fun f => ?_, fun i r h => ?_, rfl, rfl⟩
  · rw [recalling_entry]
    split <;> exact ⟨rfl, rfl⟩
  · rw [recalling_recalls] at h
    split at h
    · injection h with h
      subst h
      rfl
    · cases h

theorem booting_directorySound : DirectorySound booting := by
  refine ⟨fun f => ?_, ⟨by decide, by decide, fun f => ?_⟩, booting_resetHolds⟩
  · rw [booting_entry]
    exact ⟨rfl, by decide, by decide⟩
  · rw [booting_entry]
    exact ⟨fun h => absurd h (by decide), fun h => nomatch h⟩

theorem witness_StepKeepsDirectoryCounts_uninitialized :
    (Directory.wf booting.dir ∧ DirectorySound booting ∧ UninitCountRight booting) ∧
      ∃ t, step booting = .next t := by
  refine ⟨⟨by decide, booting_directorySound, fun _ h => (nomatch h), ?_⟩, booting_steps⟩
  have h : (fun f => (booting.entry f).state == FrameState.uninitialized) = fun _ => true :=
    funext fun f => by rw [booting_entry]; rfl
  rw [h, List.countP_true, List.length_range]
  rfl

theorem witness_StepKeepsDirectoryCounts :
    (Directory.wf recalling.dir ∧ StateCountsRight recalling ∧ HoldingCountsRight recalling) ∧
      ∃ t, step recalling = .next t :=
  ⟨⟨by decide, ⟨by decide, by decide⟩, fun p => by cases p <;> rfl⟩, _, rfl⟩

theorem witness_StepKeepsWaitCounts :
    (Directory.wf recalling.dir ∧ WaitCountsRight recalling) ∧ ∃ t, step recalling = .next t :=
  ⟨⟨by decide, by decide, fun p => by cases p <;> decide, by decide⟩, _, rfl⟩

theorem witness_StepKeepsRanges :
    (ParametersInRange booting ∧ ResetHolds booting ∧ MapsNameFrames booting) ∧
      ∃ t, step booting = .next t := by
  refine ⟨⟨⟨by decide, by decide⟩, booting_resetHolds, fun p c => ?_⟩, booting_steps⟩
  rw [booting_unit]
  cases c <;> exact fun _ h => nomatch h

theorem witness_ArrayChangesOnlyByBursts :
    let s := { seat 9 (inState .scrubbing) 0 0 0 0 with
      memPort := .serving (.scrub ⟨9, 0⟩), memory := [(18432, ⟨1, 0⟩)] }
    ∃ t, exec .scrubBurstComplete s = .next t ∧ t.memory ≠ s.memory := ⟨_, rfl, by decide⟩

theorem witness_TokenChangesHands :
    (∃ t, exec (.acquireAuthority .P1) { seat 0 Entry.reset 0 0 0 0 with token := none } = .next t ∧
      t.token = some .P1) ∧
    (∃ t, exec (.releaseAuthority .P0) (seat 0 Entry.reset 0 0 0 0) = .next t ∧ t.token = none) ∧
    TokenHolderOnline { seat 0 Entry.reset 0 0 0 0 with pending := [.attach .P3] } ∧
    ∃ t, step { seat 0 Entry.reset 0 0 0 0 with pending := [.attach .P3] } = .next t := by
  refine ⟨⟨_, rfl, by decide⟩, ⟨_, rfl, by decide⟩, fun p h => ?_, _, rfl⟩
  cases p <;> first | rfl | exact absurd h (by decide)

theorem witness_PortCommandsKeepOtherUnits :
    codeOf (.release .P0) = some 0x12 ∧ portOf (.release .P0) = some .P0 ∧ Port.P1 ≠ Port.P0 ∧
      IdleHasNoWork recalling ∧ ∃ t, exec (.release .P0) recalling = .next t := by
  refine ⟨rfl, rfl, by decide, fun _ => ⟨rfl, rfl, fun p => ?_⟩, _, rfl⟩
  cases p <;> rfl

/-- A read of the last word of page 511, mapped read-write to the last frame. -/
def mapped (e : Entry) : State :=
  { seat 4095 e 0 0 0 0 with ports := ⟨{ on with map0 := [(511, ⟨4095, true⟩)] }, on, on, on⟩ }

theorem mapped_idle (e : Entry) : IdleHasNoWork (mapped e) := by
  refine fun _ => ⟨rfl, rfl, fun p => ?_⟩
  cases p <;> rfl

theorem witness_ServedAccessHoldsItsFrame :
    ∃ t r, exec (.windowAccess .P0 .read 0x0FFFFC 1 0xF []) (mapped (heldBy .P0)) = .next t ∧
      t.memPort = .serving (.window r false) ∧ (mapped (heldBy .P0)).memPort ≠ t.memPort :=
  ⟨_, _, rfl, rfl, by decide⟩

theorem witness_UnservedOrOfflinePortChangesNothing :
    (portOf (.claim .P0) = some .P0 ∧ State.reset.busServed .P0 = false) ∧
      codeOf (.claim .P3) = some 0x10 ∧ (seat 0 Entry.reset 0 0 0 0).busServed .P3 = true ∧
        ((seat 0 Entry.reset 0 0 0 0).unit .P3).online = false := by decide

theorem witness_ArgumentsOutOfRangeRefused :
    let s := seat 0 Entry.reset 4096 512 256 2
    (Ready s .P0 ∧ s.frames ≤ s.arg .P0 0 ∧ 511 < s.arg .P0 1 ∧ 255 < s.arg .P0 2 ∧ 1 < s.arg .P0 3) ∧
      Ready (seat 0 Entry.reset 2 3 4096 0) .P0 ∧ 1 < (seat 0 Entry.reset 2 3 4096 0).arg .P0 0 ∧
        2 < (seat 0 Entry.reset 2 3 4096 0).arg .P0 1 ∧
        (seat 0 Entry.reset 2 3 4096 0).frames ≤ (seat 0 Entry.reset 2 3 4096 0).arg .P0 2 := by decide

theorem witness_AuthorityCommandsGuarded :
    (Ready (seat 0 Entry.reset 0 0 0 0) .P1 ∧ (seat 0 Entry.reset 0 0 0 0).token ≠ some .P1) ∧
      (ReadyWithToken (seat 0 Entry.reset 4096 0 0 0) .P0 ∧
        (seat 0 Entry.reset 4096 0 0 0).frames ≤ (seat 0 Entry.reset 4096 0 0 0).arg .P0 0) ∧
      ReadyWithToken (seat 0 Entry.reset 4 2 512 0) .P0 ∧ 3 < (seat 0 Entry.reset 4 2 512 0).arg .P0 0 ∧
        1 < (seat 0 Entry.reset 4 2 512 0).arg .P0 1 ∧
        511 < (seat 0 Entry.reset 4 2 512 0).arg .P0 2 := by decide

theorem witness_AuthorityCommandsGuarded_range :
    ∀ a ∈ [(4, 0, 4096), (3, 0, 2 * 65536), (3, 3, 65536 + 65535)],
      ReadyWithToken (seat 0 Entry.reset 0 a.1 a.2.1 a.2.2) .P0 ∧
        (3 < (seat 0 Entry.reset 0 a.1 a.2.1 a.2.2).arg .P0 1 ∨
          (seat 0 Entry.reset 0 a.1 a.2.1 a.2.2).arg .P0 2 = 0 ∨
          2 < (seat 0 Entry.reset 0 a.1 a.2.1 a.2.2).arg .P0 2) ∧
        ((seat 0 Entry.reset 0 a.1 a.2.1 a.2.2).frames ≤
            (seat 0 Entry.reset 0 a.1 a.2.1 a.2.2).arg .P0 3 % 65536 ∨
          1 < (seat 0 Entry.reset 0 a.1 a.2.1 a.2.2).arg .P0 3 / 65536) := by decide

theorem witness_CommandCodesRoundTrip :
    (Instr.badCommand .P2 0x49).wellFormed = true ∧ portOf (.badCommand .P2 0x49) = some .P2 ∧
      codeOf (.badCommand .P2 0x49) = some 0x49 := by decide

theorem witness_PackPlacesFields :
    (([(16, 0), (8, 0)] : List (Nat × Nat)).map Prod.fst).sum + 8 + ([] : List Nat).sum ≤ 32 := by decide

theorem witness_EventRecordWords :
    (16383 : Nat) < 16384 ∧ (65535 : Nat) < 65536 ∧ (2097151 : Nat) < 2097152 ∧
      (State.reset.unit .P0).events = [] ∧
      ((after .authorityLeaseExpiry { seat 0 Entry.reset 0 0 0 0 with now := 200 }).unit .P0).events
        = .authorityLapsed :: [] := by decide

theorem witness_PortStatusAndInterrupt :
    ((seat 0 Entry.reset 0 0 0 0).busServed .P0 = true ∧ (0xFFFFFFF7 : Word).getLsbD 3 = false ∧
      (8 : Word).getLsbD 3 = true ∧ (seat 0 Entry.reset 0 0 0 0).rstAsserted = false) ∧
      (State.reset.rstAsserted = true ∧ QueuesBounded booting ∧ (booting.unit .P0).online = false) ∧
      (let s := State.setUnit (seat 0 Entry.reset 0 0 0 0) .P0 { on with intEnable := true }
       (s.unit .P0).online = true ∧ (s.unit .P0).intEnable = true ∧ s.rstAsserted = false) ∧
      (∃ t, exec (.portReset .P0) recalling = .next t) ∧
      Ready (seat 0 Entry.reset 0 0 0 0) .P0 ∧ ((seat 0 Entry.reset 0 0 0 0).unit .P0).holding = 0 ∧
      ∃ t, exec (.detach .P0) (seat 0 Entry.reset 0 0 0 0) = .next t :=
  ⟨by decide, ⟨rfl, witness_StepKeepsQueueBounds.1, rfl⟩, by decide, ⟨_, rfl⟩, by decide, rfl, _, rfl⟩

theorem witness_EventPopRemovesHead :
    ((seat 0 Entry.reset 0 0 0 0).busServed .P0 = true ∧
      ((seat 0 Entry.reset 0 0 0 0).unit .P0).events = []) ∧
      let full := { seat 0 Entry.reset 0 0 0 0 with
        ports := ⟨{ on with events := List.replicate 16 (.scrubDone 1) }, on, on, on⟩ }
      full.busServed .P0 = true ∧
        (full.unit .P0).events = .scrubDone 1 :: List.replicate 15 (.scrubDone 1) := by decide

theorem witness_InterruptEnable :
    (State.busServed (seat 0 Entry.reset 0 0 0 0) .P0 = true ∧
      (seat 0 Entry.reset 0 0 0 0).rstAsserted = false) ∧
      (∃ t, exec .partReset booting = .next t) ∧ (∃ t, exec (.portReset .P0) recalling = .next t) ∧
      ∃ t, exec (.attach .P3) (seat 0 Entry.reset 0 0 0 0) = .next t :=
  ⟨by decide, ⟨_, rfl⟩, ⟨_, rfl⟩, _, rfl⟩

theorem witness_ControlRegionWrites :
    (seat 0 Entry.reset 0 0 0 0).busServed .P0 = true ∧ issueOf .P0 0 = .badCommand .P0 0 ∧
      (8 : Word).getLsbD 3 = true ∧ (7 : Word).getLsbD 3 = false ∧
      (plainRegister 0 = true ∧ plainRegister 63 = true ∧ plainRegister 9 = true) ∧
      0x100000 ≤ (0x1000FC : BitVec 21).toNat ∧
      64 < ((0x1000FC : BitVec 21).toNat - 0x100000) / 4 + 2 ∧
      64 < ((0x100100 : BitVec 21).toNat - 0x100000) / 4 + 1 := by decide

theorem witness_ControlRegionWrites_addresses :
    (0x1000FC : BitVec 21).toNat = 0x100000 + 4 * 63 ∧ (0x100000 : BitVec 21).toNat = 0x100000 + 4 * 0 ∧
      (0x1000E0 : BitVec 21).toNat = 0x100000 + 4 * 56 ∧ 56 + 1 + 7 ≤ 64 ∧
      (0x1000E3 : BitVec 21).toNat / 4 * 4 = 0x100000 + 4 * 56 ∧ 56 + 8 ≤ 64 ∧
      State.reset.busServed .P0 = false ∧ State.reset.rstAsserted = true := by decide

/-- R190, R195: the words of a write burst from ARG3 on are the argument and the COMMAND write. -/
theorem test_control_write_rows :
    controlWriteRows .P0 7 [5, 0x10, 7] =
      [.registerWrite .P0 7 5, .claim .P0, .registerWrite .P0 9 7] := by decide

/-- R190: a read burst of two words from ARG0 is answered with both. -/
theorem test_control_read_burst :
    (((seat 9 (inState .free) 9 1 7 0).takeControl .P0 .read 0x100010 2 []).unit .P0).answer =
      some ⟨false, [9, 1]⟩ := by
  have range : controlInRange 0x100010 2 = true := by decide
  have index : controlIndex 0x100010 = 4 := by decide
  have served : (seat 9 (inState .free) 9 1 7 0).busServed .P0 = true := by decide
  simp only [State.takeControl, range, if_true, State.readControl, served, index]
  rfl

theorem witness_RstnReleaseStartsSweep :
    booting.rstAsserted = true ∧ ResetHolds booting ∧ recalling.rstAsserted = false :=
  ⟨rfl, booting_resetHolds, rfl⟩

theorem witness_PortResetDeparts :
    recalling.rstAsserted = false ∧ Directory.wf recalling.dir ∧ DirectorySound recalling ∧
      ((recalling.entry 1500).state = .priv ∧ (recalling.entry 1500).holders.get .P0 = true) ∧
      ((recalling.entry 4095).holders.get .P0 = false ∧ waitsIn (recalling.entry 4095).queue .P0 = false) ∧
      State.reset.rstAsserted = true :=
  ⟨rfl, by decide, recalling_directorySound, by decide, by decide, rfl⟩

theorem witness_PortResetDeparts_holdings :
    (∀ g, g ≠ 1500 →
      (recalling.entry g).holders.get .P0 = false ∧ waitsIn (recalling.entry g).queue .P0 = false) ∧
      recalling.deferred = [] ∧ waitsIn (recalling.entry 1500).queue .P0 = false ∧
      waitsIn (recalling.entry 1500).queue .P1 = true ∧
      recalling.inService .P0 = false ∧ rejoined.inService .P0 = true ∧
      (∀ e ∈ [sharedBy p01, sharedBy (onePort .P0), { inState .poisoned with holders := p01 }],
        ((seat 4095 e 0 0 0 0).entry 4095).holders.get .P0 = true ∧
          ((seat 4095 e 0 0 0 0).entry 4095).queue = [] ∧
          ((seat 4095 e 0 0 0 0).entry 4095).recallField = .none) := by
  refine ⟨fun g h => ?_, by decide, by decide, by decide, by decide, by decide, by decide⟩
  rw [recalling_entry, if_neg h]
  exact ⟨rfl, rfl⟩

/-- R173, R160: P1 waits on the frame that P0's reset quarantines, and is told; P0 held the token itself. -/
theorem test_quarantine_is_told :
    let t := after (.portReset .P0) recalling
    (t.entry 1500).state = .quarantined ∧ (t.unit .P1).events = [.quarantined 1500 .P0] ∧
      (t.unit .P2).events = [] := by decide

theorem witness_AttachBringsPortOnline :
    (seat 0 Entry.reset 0 0 0 0).busServed .P3 = true ∧
      ((seat 0 Entry.reset 0 0 0 0).unit .P3).online = false ∧
      (seat 0 Entry.reset 0 0 0 0).busServed .P0 = true ∧
      ((seat 0 Entry.reset 0 0 0 0).unit .P0).online = true := by decide

theorem witness_DetachDeparts :
    (Ready recalling .P0 ∧ 0 < (recalling.unit .P0).holding) ∧
      Ready recalling .P1 ∧ (recalling.unit .P1).holding = 0 ∧ Directory.wf recalling.dir ∧
        waitsIn (recalling.entry 4095).queue .P1 = false := by decide

theorem witness_ProbeFrameReadsEntry :
    let p := { seat 4095 { sharedBy p01 with recallField := .deferred, queue := [⟨.P2, .priv, 0, 5⟩] }
      4095 0 0 0 with deferred := [⟨7, 4⟩, ⟨4095, 5⟩] }
    (p.busServed .P0 = true ∧ p.arg .P0 0 = 4095 ∧ 4095 < p.frames ∧ p.deferred = [⟨7, 4⟩] ++ ⟨4095, 5⟩ :: []) ∧
      ((seat 4095 Entry.reset 4095 0 0 0).entry 4095).queue = [] ∧
      recalling.recalls.get 0 = some ⟨1500, .P1, .priv, onePort .P0, 10100⟩ ∧ recalling.now < 10100 := by
  decide

/-- The hypotheses that the claim statements share, for P0 and the last frame, mode PRIVATE and tag 255. -/
def claims (s : State) (m : Mode) : Bool :=
  s.busServed .P0 && (s.unit .P0).online && s.arg .P0 0 == 4095 && decide (4095 < s.frames) &&
    s.arg .P0 1 == modeCode m && s.arg .P0 2 == 255 && decide (Directory.wf s.dir) &&
    decide (0 < s.poolFree) && decide ((s.unit .P0).waiting < 8)

theorem witness_ClaimTakenAtOnce :
    claims (seat 4095 (inState .free) 4095 1 255 0) .priv = true ∧
      claims (seat 4095 (sharedBy (onePort .P1)) 4095 2 255 0) .shared = true ∧
      claims (seat 4095 (sharedBy (onePort .P0)) 4095 1 255 0) .priv = true ∧
      claims (seat 4095 (heldBy .P0) 4095 2 255 0) .shared = true ∧
      claims (seat 4095 (heldBy .P0) 4095 1 255 0) .priv = true := by decide

theorem witness_ClaimTakenAtOnce_waiters :
    let q := fun m : Mode => [(⟨.P1, m, 0, 0⟩ : WaitRec), ⟨.P2, m, 1, 1⟩]
    let s := fun (m : Mode) (r : RecallField) =>
      seat 4095 { heldBy .P0 with queue := q m, recallField := r } 4095 2 255 0
    (∀ m ∈ [Mode.priv, .shared], ∀ r ∈ [RecallField.active 7, .deferred], claims (s m r) .shared = true) ∧
      ((s .shared .deferred).entry 4095).holders = onePort .P0 ∧ (s .shared .deferred).deferred = [] ∧
      waitsIn (q .shared) .P0 = false ∧ ((q .shared).map WaitRec.port).Nodup ∧
      ∀ w ∈ q .shared, w.mode = .shared := by decide

theorem witness_ClaimJoinsWaitQueue :
    let q : List WaitRec := [⟨.P2, .priv, 0, 0⟩]
    (claims (seat 4095 { heldBy .P1 with queue := q } 4095 1 255 0) .priv = true ∧
      waitsIn q .P0 = false) ∧
      claims (seat 4095 { sharedBy p01 with queue := q } 4095 1 255 0) .priv = true ∧
      claims { seat 4095 (inState .uninitialized) 4095 1 255 0 with
        dir := [], scrubQueue := List.replicate 15 ⟨0, .sweep, none⟩ } .priv = true := by decide

theorem witness_ClaimJoinsWaitQueue_first :
    claims (seat 4095 (inState .scrubbing) 4095 1 255 0) .priv = true ∧
      claims (seat 4095 (inState .quarantined) 4095 2 255 0) .shared = true ∧
      (let s := { seat 4095 (inState .uninitialized) 4095 1 255 0 with
         dir := [], scrubQueue := List.replicate 16 ⟨0, .sweep, none⟩ }
       claims s .priv = true ∧ 16 ≤ s.scrubQueue.length) := by decide

theorem witness_ClaimStartsRecall :
    let full : State := { seat 4095 (heldBy .P1) 4095 1 255 0 with
      recalls := Vector.replicate 8 (some ⟨0, .P1, .priv, onePort .P2, 0⟩), deferred := [⟨7, 4⟩, ⟨9, 6⟩],
      arrival := 5 }
    (claims (seat 4095 (heldBy .P1) 4095 1 255 0) .priv = true ∧
      (seat 4095 (heldBy .P1) 4095 1 255 0).recalls.get 0 = none) ∧
      (claims (seat 4095 (sharedBy p01) 4095 1 255 0) .priv = true ∧ p01.set .P0 false ≠ noPorts) ∧
      claims full .priv = true ∧ (∀ i, full.recalls.get i ≠ none) ∧
        full.deferred = [⟨7, 4⟩] ++ [⟨9, 6⟩] ∧ (4 : BitVec 64).toNat < full.arrival.toNat ∧
        full.arrival.toNat < (6 : BitVec 64).toNat := by decide

/-- The illustration of 3.3: frame 61's head, with number 140, goes before frame 500's, with 212. -/
theorem test_deferral_order :
    placeDeferred ⟨900, 305⟩ (placeDeferred ⟨61, 140⟩ (placeDeferred ⟨500, 212⟩ [])) =
      [⟨61, 140⟩, ⟨500, 212⟩, ⟨900, 305⟩] := by decide

theorem witness_ClaimRefused :
    claims (seat 4095 (inState .poisoned) 4095 1 255 0) .priv = true ∧
      claims (seat 4095 { heldBy .P1 with queue := [⟨.P0, .priv, 0, 0⟩] } 4095 1 255 0) .priv = true ∧
      claims (seat 4095 { heldBy .P1 with pinned := true } 4095 1 255 0) .priv = true ∧
      claims (seat 4095 { sharedBy p01 with pinned := true } 4095 1 255 0) .priv = true ∧
      (Ready { seat 4095 (heldBy .P1) 4095 1 255 0 with poolFree := 0 } .P0) ∧
      Ready { seat 4095 (heldBy .P1) 4095 1 255 0 with
        ports := ⟨{ withArgs 4095 1 255 0 with waiting := 8 }, on, on, on⟩ } .P0 := by decide

theorem witness_CancelWithdrawsClaim :
    let second := seat 4095 { heldBy .P1 with queue := [⟨.P2, .priv, 0, 0⟩, ⟨.P0, .shared, 255, 1⟩] } 4095 0 0 0
    let only := seat 4095 { heldBy .P1 with queue := [⟨.P0, .shared, 255, 1⟩], recallField := .active 7 } 4095 0 0 0
    (Ready second .P0 ∧ second.arg .P0 0 = 4095 ∧ 4095 < second.frames ∧
      (second.entry 4095).queue = ⟨.P2, .priv, 0, 0⟩ :: [] ++ ⟨.P0, .shared, 255, 1⟩ :: []) ∧
      (Ready only .P0 ∧ (only.entry 4095).queue = [⟨.P0, .shared, 255, 1⟩] ∧ only.deferred = []) ∧
      Ready (seat 4095 (heldBy .P1) 4095 0 0 0) .P0 := by decide

/-- P0 waits at the head of a frame held by P1, with these waiters behind; frame 61 is deferred, or nothing. -/
def withdrawing (e : Entry) (rest : List WaitRec) (waitingFrames : List Deferred) : State :=
  { seat 4095 { e with queue := ⟨.P0, .priv, 255, 300⟩ :: rest } 4095 0 0 0 with
    dir := [(61, { heldBy .P2 with queue := [⟨.P3, .shared, 9, 140⟩], recallField := .deferred }),
      (4095, { e with queue := ⟨.P0, .priv, 255, 300⟩ :: rest })],
    recalls := Vector.replicate 8 (some ⟨0, .P1, .priv, onePort .P2, 200⟩), deferred := waitingFrames }

/-- P2's claim, second in the queue. -/
def second (m : Mode) : WaitRec := ⟨.P2, m, 1, 200⟩

theorem witness_CancelWithdrawsClaim_head :
    (∀ e ∈ [inState .scrubbing, inState .quarantined, inState .uninitialized],
      Ready (withdrawing e [second .priv] []) .P0 ∧ e.recallField = .none) ∧
      (Ready (withdrawing { heldBy .P1 with recallField := .deferred } [] [⟨4095, 300⟩]) .P0) ∧
      (let s := withdrawing { sharedBy (onePort .P1) with recallField := .active 7 } [second .shared] []
       Ready s .P0 ∧ s.deferred = [] ∧ (s.entry 4095).state = .shared ∧
         (s.entry 4095).holders.get .P2 = false ∧ ((s.entry 4095).queue.map WaitRec.port).Nodup) ∧
      (let s := withdrawing { heldBy .P1 with recallField := .active 7 } [second .priv] []
       Ready s .P0 ∧ s.deferred = [] ∧ (s.entry 4095).holders.set .P2 false ≠ noPorts ∧
         ∀ k, k < 7 → k ≠ 7 ∧ s.recalls.get k ≠ none) := by decide

theorem witness_CancelWithdrawsClaim_deferred :
    (∀ rest ∈ [[], [second .priv]],
      let s := withdrawing { heldBy .P1 with recallField := .active 7 } rest [⟨61, 140⟩, ⟨70, 150⟩, ⟨80, 250⟩]
      Ready s .P0 ∧ s.arg .P0 0 = 4095 ∧ (∀ k, s.recalls.get k ≠ none) ∧
        inUse (s.entry 61).state = true ∧ (s.entry 61).queue = [⟨.P3, .shared, 9, 140⟩] ∧
        (s.entry 61).holders.set .P3 false ≠ noPorts ∧ (150 : BitVec 64).toNat < (200 : BitVec 64).toNat) ∧
      (let s := withdrawing { heldBy .P1 with recallField := .deferred } [second .priv]
         [⟨61, 140⟩, ⟨80, 250⟩, ⟨4095, 300⟩]
       Ready s .P0 ∧ s.deferred.filter (fun d => d.frame != 4095) = [⟨61, 140⟩] ++ [⟨80, 250⟩]) ∧
      (let s := withdrawing { heldBy .P1 with recallField := .active 7 } [] [⟨50, 100⟩, ⟨61, 140⟩]
       Ready s .P0 ∧ s.deferred = [⟨50, 100⟩] ++ ⟨61, 140⟩ :: [] ∧ needsRecall (s.entry 50) = false) := by
  decide

/-- R48, R58: the record that P0's cancel frees goes to frame 61, and frame 4095 is deferred behind frame 70. -/
theorem test_freed_record_goes_to_the_oldest :
    let t := after (.cancel .P0)
      (withdrawing { heldBy .P1 with recallField := .active 7 } [second .priv]
        [⟨61, 140⟩, ⟨70, 150⟩, ⟨80, 250⟩])
    (t.entry 61).recallField = .active 7 ∧ t.deferred = [⟨70, 150⟩, ⟨4095, 200⟩, ⟨80, 250⟩] ∧
      (t.unit .P2).events = [.recallNotice 61 .P3 .shared 1000] := by decide

theorem witness_ReleaseGivesUpFrame :
    let s := fun e => seat 4095 e 4095 0 0 0
    ∀ e ∈ [heldBy .P1, heldBy .P0, sharedBy p01, { inState .poisoned with holders := p01 }],
      Ready (s e) .P0 ∧ (s e).arg .P0 0 = 4095 ∧ 4095 < (s e).frames ∧ (s e).arg .P0 1 = 0 ∧
        ((s e).entry 4095).queue = [] ∧ ((s e).entry 4095).recallField = .none := by decide

theorem witness_ReleaseGivesUpFrame_clear :
    let s := fun e => seat 4095 e 4095 1 0 0
    ∀ e ∈ [heldBy .P1, sharedBy p01, { inState .poisoned with holders := onePort .P0 }],
      Ready (s e) .P0 ∧ (s e).arg .P0 0 = 4095 ∧ (s e).arg .P0 1 = 1 ∧
        ¬ (inUse ((s e).entry 4095).state = true ∧ ((s e).entry 4095).holders = onePort .P0) := by decide

/-- P0 and P1 share a frame that P1 waits to upgrade. -/
def upgrading : State :=
  { seat 4095 { sharedBy p01 with queue := [⟨.P1, .priv, 255, 0⟩], recallField := .active 7 } 4095 0 0 0 with
    recalls := (Vector.replicate 8 none).set 7 (some ⟨4095, .P1, .priv, onePort .P0, 200⟩) }

theorem witness_ReleaseServesWaiter_upgrade :
    Ready upgrading .P0 ∧ upgrading.arg .P0 0 = 4095 ∧ upgrading.arg .P0 1 = 0 ∧
      (upgrading.entry 4095).state = .shared ∧
      (upgrading.entry 4095).holders = (onePort .P0).set .P1 true ∧
      (upgrading.entry 4095).queue = [⟨.P1, .priv, 255, 0⟩] ∧
      (upgrading.entry 4095).recallField = .active 7 ∧
      upgrading.recalls.get 7 = some ⟨4095, .P1, .priv, onePort .P0, 200⟩ ∧ upgrading.deferred = [] := by
  decide

theorem witness_ReleaseServesWaiter :
    Ready recalling .P0 ∧ recalling.arg .P0 0 = 1500 ∧ 1500 < recalling.frames ∧ recalling.arg .P0 1 = 0 ∧
      (recalling.entry 1500).queue = [⟨.P1, .priv, 4, 0⟩] ∧
      recalling.recalls.get 0 = some ⟨1500, .P1, .priv, onePort .P0, 10100⟩ ∧ recalling.deferred = [] := by
  decide

theorem witness_ReleaseWithClear :
    let s := fun n => { seat 4095 (heldBy .P0) 4095 1 0 0 with
      memPort := .refresh, scrubQueue := List.replicate n ⟨0, .sweep, none⟩ }
    ∀ n ∈ [0, 15, 16], Ready (s n) .P0 ∧ (s n).arg .P0 0 = 4095 ∧ 4095 < (s n).frames ∧
      (s n).arg .P0 1 = 1 ∧ inUse ((s n).entry 4095).state = true ∧
      ((s n).entry 4095).holders = onePort .P0 ∧ (s n).memPort ≠ .idle := by decide

theorem witness_ReleaseWithClear_recalls :
    let q : List WaitRec := [⟨.P1, .priv, 255, 0⟩, ⟨.P2, .shared, 1, 1⟩]
    (let s := { seat 4095 { heldBy .P0 with queue := q, recallField := .deferred } 4095 1 0 0 with
       memPort := .refresh, deferred := [⟨7, 0⟩, ⟨4095, 0⟩] }
     Ready s .P0 ∧ s.arg .P0 1 = 1 ∧ s.memPort ≠ .idle ∧ (s.entry 4095).recallField = .deferred) ∧
      let s := { seat 4095 { heldBy .P0 with queue := q, recallField := .active 7 } 4095 1 0 0 with
        memPort := .refresh,
        recalls := (Vector.replicate 8 none).set 7 (some ⟨4095, .P1, .priv, onePort .P0, 200⟩) }
      Ready s .P0 ∧ s.arg .P0 1 = 1 ∧ s.memPort ≠ .idle ∧ (s.entry 4095).recallField = .active 7 ∧
        s.recalls.get 7 = some ⟨4095, .P1, .priv, onePort .P0, 200⟩ ∧ s.deferred = [] := by decide

theorem witness_MapClearAndSelect :
    Ready (seat 0 Entry.reset 1 511 0 0) .P0 ∧
      (seat 0 Entry.reset 1 511 0 0).arg .P0 0 = contextNumber .c1 ∧
      (seat 0 Entry.reset 1 511 0 0).arg .P0 1 = 511 := by decide

theorem witness_MapSetWritesEntry :
    let s := fun e => seat 4095 e 1 511 4095 1
    ∀ e ∈ [inState .poisoned, heldBy .P1, sharedBy p01, heldBy .P0],
      Ready (s e) .P0 ∧ (s e).arg .P0 0 = contextNumber .c1 ∧ (s e).arg .P0 1 = 511 ∧
        (s e).arg .P0 2 = 4095 ∧ 4095 < (s e).frames ∧ (s e).arg .P0 3 = true.toNat := by decide

theorem witness_ProbePageVerdict :
    Ready (seat 0 Entry.reset 0 511 0 0) .P0 ∧
      (seat 0 Entry.reset 0 511 0 0).arg .P0 0 = contextNumber .c0 ∧
      (seat 0 Entry.reset 0 511 0 0).mapEntry .P0 .c0 511 = none ∧
      (mapped (heldBy .P0)).mapEntry .P0 .c0 511 = some ⟨4095, true⟩ := by decide

theorem firstFrom_is_reset (s : State) (h : s.dir = []) (g : Nat) (st : FrameState)
    (hs : st ≠ .uninitialized) : (s.entry g).state ≠ st := by
  rw [Laws.entry_of_dir_nil h]
  exact Ne.symm hs

theorem witness_TokenCommandsAndLease :
    (let s := { seat 0 Entry.reset 0 0 0 0 with dir := [], token := none }
     Ready s .P0 ∧ (∀ g < s.frames, (s.entry g).state ≠ .quarantined) ∧
       (∀ g < s.frames, (s.entry g).state ≠ .poisoned) ∧ s.token = none) ∧
    (Ready (seat 0 Entry.reset 0 0 0 0) .P1 ∧ ReadyWithToken (seat 0 Entry.reset 0 0 0 0) .P0 ∧
      (seat 0 Entry.reset 0 0 0 0).now < (seat 0 Entry.reset 0 0 0 0).leaseDeadline) ∧
    (let late := { seat 0 Entry.reset 0 0 0 0 with now := 200 }
     late.token = some .P0 ∧ late.leaseDeadline ≤ late.now) :=
  ⟨⟨by decide, fun g _ => firstFrom_is_reset _ rfl g _ (by decide),
    fun g _ => firstFrom_is_reset _ rfl g _ (by decide), rfl⟩, by decide, by decide⟩

theorem witness_TokenCommandsAndLease_found :
    let s := { seat 0 Entry.reset 0 0 0 0 with dir := [(0, inState .poisoned), (2, inState .quarantined)] }
    Ready s .P0 ∧ s.token = some .P0 ∧
      (2 < s.frames ∧ (s.entry 2).state = .quarantined ∧ ∀ g < 2, (s.entry g).state ≠ .quarantined) ∧
      0 < s.frames ∧ (s.entry 0).state = .poisoned ∧ ∀ g < 0, (s.entry g).state ≠ .poisoned := by decide

theorem witness_AssignGivesFrame :
    ReadyWithToken (seat 4095 (inState .free) 4095 3 1 0) .P0 ∧
      (seat 4095 (inState .free) 4095 3 1 0).arg .P0 1 = portNumber .P3 ∧
      ((seat 4095 (inState .free) 4095 3 1 0).unit .P3).online = false ∧
      ReadyWithToken (seat 4095 (inState .free) 4095 2 1 0) .P0 ∧
      (seat 4095 (inState .free) 4095 2 1 0).arg .P0 1 = portNumber .P2 ∧
      ((seat 4095 (inState .free) 4095 2 1 0).unit .P2).online = true ∧
      ((seat 4095 (heldBy .P1) 4095 2 1 0).entry 4095).state ≠ .free := by decide

theorem witness_ForceReleaseRevokes :
    let s := fun e => seat 4095 e 4095 1 0 0
    ∀ e ∈ [heldBy .P0, heldBy .P1, sharedBy p01, { inState .poisoned with holders := p01 }],
      ReadyWithToken (s e) .P0 ∧ (s e).arg .P0 0 = 4095 ∧ 4095 < (s e).frames ∧
        (s e).arg .P0 1 = portNumber .P1 ∧ ((s e).entry 4095).queue = [] ∧
        ((s e).entry 4095).recallField = .none := by decide

theorem witness_PinAndUnpin :
    let s := fun e => seat 4095 e 4095 0 0 0
    ∀ e ∈ [inState .free, heldBy .P1, { heldBy .P1 with queue := [⟨.P2, .priv, 0, 0⟩] }],
      ReadyWithToken (s e) .P0 ∧ (s e).arg .P0 0 = 4095 ∧ 4095 < (s e).frames := by decide

theorem witness_ScrubQueuesFrame :
    let s := fun e n => { seat 4095 e 4095 0 0 0 with scrubQueue := List.replicate n ⟨0, .sweep, none⟩ }
    (∀ n ∈ [1, 15, 16], ReadyWithToken (s { inState .poisoned with holders := p01 } n) .P0 ∧
      (s { inState .poisoned with holders := p01 } n).arg .P0 0 = 4095) ∧
      ReadyWithToken (s (heldBy .P1) 0) .P0 := by decide

theorem witness_UnquarantineFreesFrame :
    let s := fun e => seat 4095 e 4095 0 0 0
    ∀ e ∈ [heldBy .P1, inState .quarantined,
        { inState .quarantined with queue := [⟨.P2, .shared, 255, 0⟩] }],
      ReadyWithToken (s e) .P0 ∧ (s e).arg .P0 0 = 4095 ∧ 4095 < (s e).frames ∧
        ((s e).entry 4095).recallField = .none := by decide

theorem witness_UnquarantineFreesFrame_queues :
    let s := fun q => seat 4095 { inState .quarantined with queue := q } 4095 0 0 0
    (∀ q ∈ [[(⟨.P2, .shared, 255, 0⟩ : WaitRec), ⟨.P0, .shared, 0, 1⟩, ⟨.P1, .shared, 1, 2⟩]],
      ReadyWithToken (s q) .P0 ∧ ((s q).entry 4095).queue ≠ [] ∧
        (∀ w ∈ ((s q).entry 4095).queue, w.mode = .shared) ∧
        (((s q).entry 4095).queue.map WaitRec.port).Nodup ∧ ((s q).entry 4095).holders = noPorts) ∧
      let t := { s [⟨.P2, .priv, 255, 0⟩, ⟨.P1, .shared, 1, 2⟩] with
        recalls := (Vector.replicate 8 (some ⟨0, .P1, .priv, onePort .P2, 0⟩)).set 7 none }
      ReadyWithToken t .P0 ∧
        (t.entry 4095).queue = ⟨.P2, .priv, 255, 0⟩ :: ⟨.P1, .shared, 1, 2⟩ :: [] ∧
        t.recalls.get 7 = none ∧ ∀ j, j < 7 → t.recalls.get j ≠ none := by decide

theorem witness_MapForAnotherPort_refused :
    let s := fun e => seat 4095 e 1 1 511 (4095 + 65536)
    ∀ e ∈ [{ inState .poisoned with holders := p01 }, sharedBy p01],
      ReadyWithToken (s e) .P0 ∧ (s e).arg .P0 3 = 4095 + 65536 * true.toNat ∧
        ((s e).unit .P1).online = true ∧ ((s e).entry 4095).holders.get .P1 = true ∧
        ((s e).entry 4095).state ≠ .priv := by decide

theorem witness_MapForAnotherPort :
    (let s := seat 4095 (heldBy .P1) 1 1 511 (4095 + 65536)
     ReadyWithToken s .P0 ∧ s.arg .P0 0 = portNumber .P1 ∧ s.arg .P0 1 = contextNumber .c1 ∧
       s.arg .P0 2 = 511 ∧ s.arg .P0 3 = 4095 + 65536 * true.toNat ∧ (s.unit .P1).online = true ∧
       (s.entry 4095).holders.get .P1 = true) ∧
      (let s := seat 4095 (heldBy .P1) 2 1 511 4095
       ReadyWithToken s .P0 ∧ s.arg .P0 0 = portNumber .P2 ∧ (s.entry 4095).holders.get .P2 = false) ∧
      let s := seat 4095 (heldBy .P1) 3 1 511 4095
      ReadyWithToken s .P0 ∧ s.arg .P0 0 = portNumber .P3 ∧ (s.unit .P3).online = false := by decide

theorem witness_SetParameterWritesTable :
    (∀ a ∈ [(2, 1), (0, 0), (1, 65536), (0, 1), (0, 65535), (1, 1), (1, 65535)],
      ReadyWithToken (seat 0 Entry.reset a.1 a.2 0 0) .P0 ∧
        (seat 0 Entry.reset a.1 a.2 0 0).arg .P0 0 = a.1 ∧
        (seat 0 Entry.reset a.1 a.2 0 0).arg .P0 1 = a.2) := by decide

theorem witness_WindowAccessFaultsAtArrival :
    (seat 0 Entry.reset 0 0 0 0).busServed .P3 = true ∧
      ((seat 0 Entry.reset 0 0 0 0).unit .P3).online = false ∧
      Ready (mapped (heldBy .P0)) .P0 ∧
      512 < (0x0FFFFC : BitVec 21).toNat % 2048 / 4 + 2 ∧
      (0x0FFFFC : BitVec 21).toNat % 2048 / 4 + 1 ≤ 512 ∧ (0x0FFFFC : BitVec 21).toNat / 2048 = 511 ∧
      (mapped (heldBy .P0)).mapEntry .P0 .c0 510 = none ∧
      State.mapEntry { mapped (heldBy .P0) with
        ports := ⟨{ on with map0 := [(511, ⟨4095, false⟩)] }, on, on, on⟩ } .P0 .c0 511
        = some ⟨4095, false⟩ := by decide

theorem witness_WindowAccessAtGrant :
    (∀ e ∈ [inState .poisoned, heldBy .P1, sharedBy p01, heldBy .P0],
      Ready (mapped e) .P0 ∧ (mapped e).memPort = .idle ∧
        (mapped e).mapEntry .P0 ((mapped e).unit .P0).context ((0x0FFFFC : BitVec 21).toNat / 2048)
          = some ⟨4095, true⟩) ∧
      IdleHasNoWork (mapped (heldBy .P0)) ∧
      Ready { mapped (heldBy .P0) with memPort := .refresh } .P0 :=
  ⟨by decide, mapped_idle _, by decide⟩

theorem witness_WindowAccessAtGrant_held :
    let s := { mapped (heldBy .P0) with
      memPort := .serving (.window ⟨.P0, .read, 9, 0, 1, 0xF, [], .c0, 0, 0⟩ true) }
    Ready s .P0 ∧ s.inService .P0 = true ∧
      s.mapEntry .P0 .c0 ((0x0FFFFC : BitVec 21).toNat / 2048) = some ⟨4095, true⟩ := by decide

theorem witness_ErrorCodeVerdicts :
    (readStored [(8, ⟨5, (1 : Bits39) <<< 38⟩)] 8).failed ^^^ 0 = (1 : Bits39) <<< (38 : Fin 39).val ∧
      (readStored [] 8).failed ^^^ 0 = 0 ∧
      (readStored [(8, ⟨5, 1⟩)] 8).failed ^^^ ((1 : Bits39) <<< 38)
        = ((1 : Bits39) <<< (0 : Fin 39).val) ^^^ ((1 : Bits39) <<< (38 : Fin 39).val) := by decide

/-- The last eight words of the last frame are in service. -/
def serving (a : Access) (en : BitVec 4) (e : Entry) : State :=
  { seat 4095 e 0 0 0 0 with
    memPort := .serving (.window ⟨.P0, a, 4095, 504, 8, en, [1, 2, 3, 4, 5, 6, 7, 8], .c0, 511, 0⟩ false) }

theorem serving_oneRequest (a : Access) (en : BitVec 4) (e : Entry) : OneRequestEach (serving a en e) := by
  intro p
  cases p <;>
    exact ⟨fun _ => rfl, fun h => absurd rfl h, fun r h => by rcases h with h | h <;> exact nomatch h⟩

theorem witness_BurstPerformed :
    (∀ a ∈ [Access.read, Access.write], ∀ en ∈ [(0xF : BitVec 4), 0x5],
      ∃ r, (serving a en (heldBy .P0)).memPort = .serving (.window r false) ∧ r.access = a ∧
        OneRequestEach (serving a en (heldBy .P0)) ∧
        ∀ i < r.burst, (readStored (serving a en (heldBy .P0)).memory (wordAddr r i)).failed = 0) := by
  intro a _ en _
  exact ⟨_, rfl, rfl, serving_oneRequest a en _, fun _ _ => rfl⟩

/-- The holders P0 and P1 of a frame; P1 waits to upgrade, P2 waits. -/
def awaited : Entry := { sharedBy p01 with queue := [⟨.P1, .priv, 255, 0⟩, ⟨.P2, .shared, 1, 1⟩] }

theorem witness_UncorrectableEndsAccess :
    (∀ a ∈ [Access.read, Access.write],
      let s := serving a 0x5 awaited
      ∃ r, s.memPort = .serving (.window r false) ∧ OneRequestEach s ∧
        (r.access = .read ∨ (r.access = .write ∧ r.enables ≠ 0 ∧ r.enables ≠ 0xF)) ∧
        7 < r.burst ∧
        (∀ i < 7, (readStored s.memory (wordAddr r i)).failed ^^^
          (List.replicate 7 (0 : Bits39) ++ [3]).getD i 0 = 0) ∧
        verdictOf ((readStored s.memory (wordAddr r 7)).failed ^^^
          (List.replicate 7 (0 : Bits39) ++ [3]).getD 7 0) = .uncorrectable ∧
        (s.unit r.port).online = true ∧ (s.unit r.port).held = none ∧ NoneWaiting s ∧ s.deferred = [] ∧
        inUse (s.entry r.frame).state = true ∧ ((s.entry r.frame).queue.map WaitRec.port).Nodup) ∧
      inUse ((serving .read 0xF (inState .free)).entry 4095).state = false := by
  refine ⟨fun a ha => ?_, by decide⟩
  rcases List.mem_pair.mp ha with rfl | rfl
  all_goals
    exact ⟨_, rfl, serving_oneRequest _ _ _, by decide, by decide, by decide, by decide, by decide, rfl,
      ⟨rfl, fun p => by cases p <;> rfl⟩, rfl, by decide, by decide⟩

/-- R117, R50: the records of a poisoning by P0's read. -/
theorem test_poisoning_records :
    let t := after (.uncorrectableError [3]) (serving .read 0xF awaited)
    (t.unit .P0).events = [.fault 0 .c0 .read 8 .uncorrectable, .poisoned 4095] ∧
      (t.unit .P1).events = [.poisoned 4095, .refused 4095 255] ∧
      (t.unit .P2).events = [.refused 4095 1] := by decide

theorem witness_ScrubBurstZeroes :
    let s := fun b q => { seat 4095 { inState .scrubbing with queue := q } 0 0 0 0 with
      memPort := .serving (.scrub ⟨4095, b⟩), uninitCount := 0,
      scrubQueue := [⟨4095, .release, some .P0⟩] }
    ∀ b ∈ [0, 62, 63], ∀ q ∈ [[], [(⟨.P2, .shared, 255, 0⟩ : WaitRec)]],
      (s b q).memPort = .serving (.scrub ⟨4095, b⟩) ∧ NoneWaiting (s b q) ∧ (s b q).refreshDue = false ∧
        ((s b q).entry 4095).state = .scrubbing ∧ ((s b q).entry 4095).holders = noPorts ∧
        ((s b q).entry 4095).recallField = .none := by
  intro s b _ q _
  refine ⟨rfl, ⟨rfl, fun p => ?_⟩, rfl, rfl, rfl, rfl⟩
  cases p <;> rfl

theorem witness_ScrubBurstZeroes_next :
    let s := fun rest n =>
      { seat 4095 (inState .scrubbing) 0 0 0 0 with
        dir := [(0, inState .free), (4095, inState .scrubbing)],
        memPort := .serving (.scrub ⟨4095, 63⟩), uninitCount := n,
        scrubQueue := ⟨4095, .release, some .P0⟩ :: rest }
    NoneWaiting (s [⟨7, .command, some .P1⟩] 1) ∧ NoneWaiting (s [] 1) ∧ 0 < (s [] 1).uninitCount ∧
      1 < (s [] 1).frames ∧ ((s [] 1).entry 1).state = .uninitialized ∧
      ∀ h < 1, ((s [] 1).entry h).state ≠ .uninitialized := by
  refine ⟨⟨rfl, fun p => by cases p <;> rfl⟩, ⟨rfl, fun p => by cases p <;> rfl⟩, by decide, by decide,
    by decide, by decide⟩

theorem witness_RefreshEvents_ring :
    let r : Request := ⟨.P1, .write, 4095, 0, 1, 1, [1], .c0, 0, 0⟩
    let s := { seat 4095 (heldBy .P1) 0 0 0 0 with
      memPort := .refresh, refreshEnd := 100, arbiter := .port .P3, scrubRequest := none,
      ports := ⟨on, { on with request := some r },
        { on with request := some { r with port := .P2 } }, PortUnit.reset false⟩ }
    s.arbiter = requesterAt 3 ∧ (∀ j < 3, NothingWaitingAt s (requesterAt (3 + j))) ∧
      requesterAt (3 + 3) = .port .P1 ∧ (s.unit .P1).request = some r ∧
      (s.entry r.frame).holders.get r.port = true ∧ (s.entry r.frame).state = .priv ∧ r.enables ≠ 0 ∧
      requesterAt (3 + 1) = .scrub := by
  refine ⟨rfl, fun j hj => ?_, rfl, rfl, by decide, by decide, by decide, rfl⟩
  have : j = 0 ∨ j = 1 ∨ j = 2 := by omega
  rcases this with rfl | rfl | rfl <;> rfl

theorem witness_RefreshEvents :
    let s := fun m d q => { seat 0 Entry.reset 0 0 0 0 with
      memPort := m, refreshDue := d, scrubRequest := q, refreshAt := 100, refreshEnd := 100 }
    ((s .idle false none).refreshAt ≤ (s .idle false none).now) ∧
      (s (.serving (.scrub ⟨0, 0⟩)) false none).memPort ≠ .idle ∧
      ((s .refresh true none).refreshEnd ≤ (s .refresh true none).now) ∧
      NoneWaiting (s .refresh false none) ∧
      (s .refresh false (some ⟨0, 0⟩)).scrubRequest = some ⟨0, 0⟩ ∧
      { seat 0 Entry.reset 0 0 0 0 with now := 0 }.now < (seat 0 Entry.reset 0 0 0 0).refreshAt := by
  refine ⟨by decide, nofun, by decide, ⟨rfl, fun p => ?_⟩, rfl, by decide⟩
  cases p <;> rfl

theorem witness_RecallDeadlineRevokes :
    (recalling.now < 10100 ∧ ∀ i, (recalling.entry 4095).recallField ≠ .active i) ∧
      let late := { recalling with now := 10100 }
      (late.entry 1500).recallField = .active 0 ∧
        late.recalls.get 0 = some ⟨1500, .P1, .priv, onePort .P0, 10100⟩ ∧ 10100 ≤ late.now ∧
        inUse (late.entry 1500).state = true ∧ (late.entry 1500).holders = onePort .P0 ∧
        (late.entry 1500).queue = [⟨.P1, .priv, 4, 0⟩] ∧ (onePort .P0).get .P1 = false ∧
        late.deferred = [] := by decide

end Sys2Proof.Tests
end

section
/-! PROOFS. Event queues and the interrupt (chapter 9): PORT_STATUS and INT_ENABLE as they read, the port's
interrupt, and EVENT_POP. -/

namespace Sys2Proof.Proofs

open Sys2Proof.Machine Sys2Proof.Safety Sys2Proof.Laws

/-! ### Packed words -/

/-- The bits of a packing: the first field's below its width, the other fields' above (R199). -/
theorem packNat_cons_testBit (w v : Nat) (t : List (Nat × Nat)) (i : Nat) :
    (packNat ((w, v) :: t)).testBit i = if i < w then v.testBit i else (packNat t).testBit (i - w) := by
  have low : v % 2 ^ w < 2 ^ w := Nat.mod_lt _ (Nat.two_pow_pos w)
  rw [packNat, Nat.add_comm, Nat.testBit_two_pow_mul_add _ low]
  split
  next h => simp [Nat.testBit_mod_two_pow, h]
  next => rfl

theorem pack_getLsbD (l : List (Nat × Nat)) {i : Nat} (h : i < 32) :
    (pack l).getLsbD i = (packNat l).testBit i := by
  rw [pack, BitVec.getLsbD_ofNat]
  simp [h]

theorem bool_toNat_testBit_zero (b : Bool) : b.toNat.testBit 0 = b := by
  cases b <;> rfl

theorem contextNumber_testBit_zero (c : Context) : (contextNumber c).testBit 0 = true ↔ c = .c1 := by
  cases c <;> decide

theorem contextNumber_lt (c : Context) : contextNumber c < 2 := by
  cases c <;> decide

theorem portNumber_lt (p : Port) : portNumber p < 4 := by
  cases p <;> decide

/-! ### PORT_STATUS and INT_ENABLE as they read (R196) -/

theorem holdsToken_iff (s : State) (p : Port) : s.holdsToken p = true ↔ s.token = some p :=
  beq_iff_eq

/-- The recall-pending indication: some recall in use has the port still to release (R72). -/
theorem recallPending_iff (s : State) (p : Port) :
    s.recallPending p = true ↔ ∃ i r, s.recalls.get i = some r ∧ r.toRelease.get p = true := by
  have slots : s.recallPending p = true ↔
      ∃ slot ∈ s.recalls, ∃ r, slot = some r ∧ r.toRelease.get p = true := by
    simp only [State.recallPending, List.any_eq_true, Option.any_eq_true, Vector.mem_toList_iff]
  rw [slots]
  constructor
  · rintro ⟨slot, hmem, r, hslot, hport⟩
    obtain ⟨i, hi, rfl⟩ := Vector.getElem_of_mem hmem
    exact ⟨⟨i, hi⟩, r, hslot, hport⟩
  · rintro ⟨i, r, hslot, hport⟩
    exact ⟨_, Vector.getElem_mem i.isLt, r, hslot, hport⟩

/-- The flags of PORT_STATUS, each at its bit. -/
theorem portStatus_bits (s : State) (p : Port) :
    (s.portStatus p).getLsbD 0 = (s.unit p).online ∧
    (s.portStatus p).getLsbD 1 = s.holdsToken p ∧
    (s.portStatus p).getLsbD 2 = s.recallPending p ∧
    (s.portStatus p).getLsbD 3 = (s.unit p).overrun ∧
    (s.portStatus p).getLsbD 4 = s.sweepComplete ∧
    (s.portStatus p).getLsbD 5 = (contextNumber (s.unit p).context).testBit 0 := by
  simp (disch := decide) only [State.portStatus, pack_getLsbD]
  simp [packNat_cons_testBit, fFlag, fContext, bool_toNat_testBit_zero, -Nat.testBit_zero]

/-- PORT_STATUS as a number: the flags below bit 6, the port from bit 8 on. -/
theorem portStatus_toNat (s : State) (p : Port) :
    ∃ flags < 64, (s.portStatus p).toNat = flags + 256 * portNumber p := by
  have := Bool.toNat_lt (s.unit p).online
  have := Bool.toNat_lt (s.holdsToken p)
  have := Bool.toNat_lt (s.recallPending p)
  have := Bool.toNat_lt (s.unit p).overrun
  have := Bool.toNat_lt s.sweepComplete
  have := contextNumber_lt (s.unit p).context
  have := portNumber_lt p
  simp only [State.portStatus, pack, packNat, fFlag, fContext, fPort, BitVec.toNat_ofNat]
  exact ⟨(s.unit p).online.toNat + 2 * (s.holdsToken p).toNat + 4 * (s.recallPending p).toNat +
    8 * (s.unit p).overrun.toNat + 16 * s.sweepComplete.toNat +
    32 * contextNumber (s.unit p).context, by omega, by omega⟩

theorem controlRead_intEnable (s : State) (p : Port) :
    s.controlRead p 2 = if (s.unit p).intEnable then 1 else 0 := by
  have packed : s.controlRead p 2 = pack [fFlag (s.unit p).intEnable] := rfl
  rw [packed]
  cases (s.unit p).intEnable <;> rfl

theorem controlRead_eventCount {s : State} {p : Port} (h : (s.unit p).events.length < 2 ^ 32) :
    (s.controlRead p 20).toNat = (s.unit p).events.length :=
  Nat.mod_eq_of_lt h

theorem headRecord_of_nil {s : State} {p : Port} (h : (s.unit p).events = []) :
    s.headRecord p = Words4.zero := by
  rw [State.headRecord, h]

theorem headRecord_of_cons {s : State} {p : Port} {r : EventRecord} {rest : List EventRecord}
    (h : (s.unit p).events = r :: rest) : s.headRecord p = recordWords r := by
  rw [State.headRecord, h]

/-! ### Writes of PORT_STATUS and EVENT_POP on a served bus -/

theorem writeControl_served {s : State} {p : Port} (effect : PortUnit → PortUnit)
    (h : s.busServed p = true) :
    s.writeControl p effect = s.setUnit p { effect (s.unit p) with answer := some ⟨false, []⟩ } :=
  if_pos h

/-- A 0 in bit 3 leaves OVERRUN as it is (R185). -/
theorem exec_portStatusWrite_keep {s : State} {p : Port} {v : Word} (hv : v.getLsbD 3 = false)
    (h : s.busServed p = true) :
    exec (.portStatusWrite p v) s =
      .next (s.setUnit p { s.unit p with answer := some ⟨false, []⟩ }) := by
  change execPortStatusWrite p v s = _
  rw [execPortStatusWrite, writeControl_served _ h, hv]
  rfl

/-- A 1 in bit 3 clears OVERRUN (R185). -/
theorem exec_portStatusWrite_clear {s : State} {p : Port} {v : Word} (hv : v.getLsbD 3 = true)
    (h : s.busServed p = true) :
    exec (.portStatusWrite p v) s =
      .next (s.setUnit p { s.unit p with overrun := false, answer := some ⟨false, []⟩ }) := by
  change execPortStatusWrite p v s = _
  rw [execPortStatusWrite, writeControl_served _ h, hv]
  rfl

/-- The queue loses its head, if it has one (R183). -/
theorem exec_eventPop {s : State} {p : Port} (v : Word) (h : s.busServed p = true) :
    exec (.eventPop p v) s =
      .next (s.setUnit p { s.unit p with
        events := (s.unit p).events.tail, answer := some ⟨false, []⟩ }) := by
  change execEventPop p v s = _
  rw [execEventPop, writeControl_served _ h]

/-! ### The interrupt (R188) -/

theorem irq_iff (s : State) (p : Port) :
    s.irq p = true ↔ s.rstAsserted = false ∧ (s.unit p).intEnable = true ∧
      ((s.unit p).events ≠ [] ∨ (s.unit p).overrun = true) := by
  simp [State.irq, and_assoc]

theorem irq_false_of_rstAsserted {s : State} {p : Port} (h : s.rstAsserted = true) : s.irq p = false := by
  simp [State.irq, h]

/-- With an empty queue and OVERRUN clear the interrupt is not asserted. -/
theorem irq_false_of_no_events {s : State} {p : Port} (he : (s.unit p).events = [])
    (ho : (s.unit p).overrun = false) : s.irq p = false := by
  simp [State.irq, he, ho]

/-- A record queued to an ONLINE port waits, or OVERRUN tells that it was discarded (R178, R181). -/
theorem postUnit_online_signals {u : PortUnit} (r : EventRecord) (h : u.online = true) :
    (postUnit u r).events ≠ [] ∨ (postUnit u r).overrun = true := by
  rcases postUnit_cases u r with ⟨offline, _⟩ | ⟨_, _, joined⟩ | ⟨_, _, discarded⟩
  · simp [h] at offline
  · exact .inl (by simp [joined])
  · exact .inr (by simp [discarded])

/-- A record queued to an ONLINE port whose interrupt is enabled asserts it. -/
theorem post_irq {s : State} {p : Port} (r : EventRecord) (honline : (s.unit p).online = true)
    (henable : (s.unit p).intEnable = true) (hrst : s.rstAsserted = false) :
    (s.post p r).irq p = true := by
  have posted : (s.post p r).unit p = postUnit (s.unit p) r := setUnit_unit_same s p _
  have enabled : (postUnit (s.unit p) r).intEnable = true := by rw [postUnit_touches, henable]
  rw [irq_iff, posted]
  exact ⟨hrst, enabled, postUnit_online_signals r honline⟩

/-- A port reset leaves the unit at its reset values, or finds the part under RSTn (R176, log 23). -/
theorem portReset_irq {s t : State} {p : Port} (h : exec (.portReset p) s = .next t) :
    t.irq p = false := by
  change execPortReset p s = .next t at h
  unfold execPortReset at h
  split at h
  next hrst =>
    cases h
    exact irq_false_of_rstAsserted hrst
  next =>
    cases h
    have reset : (s.depart p).unit p = PortUnit.reset true := setUnit_unit_same _ p _
    exact irq_false_of_no_events (by rw [reset]; rfl) (by rw [reset]; rfl)

/-- DETACH's owner, for a port that holds no frame, leaves it no record and OVERRUN clear (R168). -/
theorem ownDetach_irq {s : State} {p : Port} (h : (s.unit p).holding = 0) :
    (ownDetach p () s).irq p = false := by
  have departs : ¬ 0 < (s.unit p).holding := by omega
  apply irq_false_of_no_events
  · simp [ownDetach, departs, State.reply, State.setResults, State.detachPort]
  · simp [ownDetach, departs, State.reply, State.setResults, State.detachPort]

/-- A DETACH that completes deasserts the interrupt (R167, R168). -/
theorem detach_irq {s t : State} {p : Port} (hready : Ready s p) (hhold : (s.unit p).holding = 0)
    (h : exec (.detach p) s = .next t) : t.irq p = false := by
  obtain ⟨hserved, honline⟩ := hready
  have owner : execDetach p s = .next (ownDetach p () (s.takeCode p 0x02)) := by
    simp [execDetach, State.issue, hserved, honline]
  change execDetach p s = .next t at h
  rw [owner] at h
  cases h
  exact ownDetach_irq (by simpa [State.takeCode] using hhold)

/-! ### The statements -/

/-- Settles O25: the fields of PORT_STATUS by the bits of a packing, the interrupt by what each operation
leaves of the queue and OVERRUN. -/
theorem portStatusAndInterrupt : Obligations.PortStatusAndInterrupt := by
  intro s p
  obtain ⟨online, token, pending, overrun, sweep, context⟩ := portStatus_bits s p
  obtain ⟨flags, hflags, number⟩ := portStatus_toNat s p
  have hport := portNumber_lt p
  have status : s.controlRead p 1 = s.portStatus p := rfl
  rw [status, controlRead_intEnable]
  refine ⟨online, ?_, ?_, overrun, sweep, ?_, by omega, ?_, ⟨by omega, ?_⟩, ?_, ?_, ?_,
    irq_false_of_rstAsserted, ?_, ?_, ?_⟩
  · rw [token, holdsToken_iff]
  · rw [pending, recallPending_iff]
  · rw [context, contextNumber_testBit_zero]
  · cases (s.unit p).intEnable <;> rfl
  · cases (s.unit p).intEnable <;> decide
  · exact fun v hv hserved => exec_portStatusWrite_keep hv hserved
  · intro v hv hserved
    refine ⟨_, exec_portStatusWrite_clear hv hserved, ?_, rfl⟩
    obtain ⟨_, _, _, cleared, _⟩ := portStatus_bits
      (s.setUnit p { s.unit p with overrun := false, answer := some ⟨false, []⟩ }) p
    exact cleared.trans (by rw [setUnit_unit_same])
  · intro hrst
    simp [irq_iff, hrst]
  · intro hbounded hoffline
    obtain ⟨_, empty⟩ := hbounded p
    obtain ⟨hevents, hoverrun⟩ := empty hoffline
    exact irq_false_of_no_events hevents hoverrun
  · exact fun r honline henable hrst => post_irq r honline henable hrst
  · rintro t (hreset | ⟨hready, hhold, hdetach⟩)
    · exact portReset_irq hreset
    · exact detach_irq hready hhold hdetach

/-- Settles O26: EVENT_POP writes the queue's tail. -/
theorem eventPopRemovesHead : Obligations.EventPopRemovesHead := by
  intro p v s hserved
  have popped := exec_eventPop v hserved
  refine ⟨fun empty => ?_, fun r rest queue => ?_, rfl⟩
  · rw [popped, empty, List.tail_nil, ← empty]
  · rw [queue, List.tail_cons] at popped
    have behind : ((s.setUnit p { s.unit p with
        events := rest, answer := some ⟨false, []⟩ }).unit p).events = rest := by simp
    refine ⟨_, popped, rfl, ?_, fun room => ?_⟩
    · cases rest with
      | nil => exact headRecord_of_nil behind
      | cons n _ => exact headRecord_of_cons behind
    · have counted : (s.unit p).events.length = rest.length + 1 := by rw [queue, List.length_cons]
      rw [controlRead_eventCount (by omega), controlRead_eventCount (by rw [behind]; omega), behind,
        counted]

end Sys2Proof.Proofs
end

section
/-! PROOFS. The words of the event records (section 10.4): each record's words as sums of its fields' places
(R200), and EVENT0 to EVENT3 as they read. -/

namespace Sys2Proof.Proofs

open Sys2Proof.Machine Sys2Proof.Safety Sys2Proof.Laws

/-! ### Fields that fit their widths -/

/-- A first field that fits its width loses nothing (R199). -/
theorem packNat_cons_of_lt {w v : Nat} (t : List (Nat × Nat)) (h : v < 2 ^ w) :
    packNat ((w, v) :: t) = v + 2 ^ w * packNat t := by
  rw [packNat, Nat.mod_eq_of_lt h]

theorem pack_single {w v : Nat} (h : v < 2 ^ w) : pack [(w, v)] = BitVec.ofNat 32 v := by
  rw [pack, packNat_cons_of_lt [] h, packNat, Nat.mul_zero, Nat.add_zero]

/-- Two fields with unused bits between them: the upper one stands above the lower one's width and the gap. -/
theorem pack_low_gap_high {a x b y : Nat} (gap : Nat) (hx : x < 2 ^ a) (hy : y < 2 ^ b) :
    pack [(a, x), (gap, 0), (b, y)] = BitVec.ofNat 32 (x + 2 ^ (a + gap) * y) := by
  have number : packNat [(a, x), (gap, 0), (b, y)] = x + 2 ^ (a + gap) * y := by
    rw [packNat_cons_of_lt _ hx, packNat_cons_of_lt _ (Nat.two_pow_pos gap), packNat_cons_of_lt _ hy,
      packNat, Nat.mul_zero, Nat.add_zero, Nat.zero_add, ← Nat.mul_assoc, ← Nat.pow_add]
  rw [pack, number]

theorem modeCode_lt (m : Mode) : modeCode m < 4 := by
  cases m <;> decide

theorem causeCode_lt (c : FaultCause) : causeCode c < 16 := by
  cases c <;> decide

theorem revokeCode_lt (c : RevokeCause) : revokeCode c < 4 := by
  cases c <;> decide

theorem accessCode_lt (a : Access) : accessCode a < 2 := by
  cases a <;> decide

/-! ### The words of each kind of record (R200) -/

/-- EVENT1 of a record about a frame of the part: the frame itself (R2). -/
theorem pack_frame {f : Nat} (hf : f < 16384) : pack [fFrame f] = BitVec.ofNat 32 f :=
  pack_single hf

/-- EVENT3 of GRANT: the mode from bit 0, the three flags from bit 8. -/
theorem pack_grantFlags (m : Mode) (forced assigned upgraded : Bool) :
    pack [fMode m, (6, 0), fFlag forced, fFlag assigned, fFlag upgraded] =
      BitVec.ofNat 32 (modeCode m + 256 * forced.toNat + 512 * assigned.toNat +
        1024 * upgraded.toNat) := by
  have := modeCode_lt m
  have := Bool.toNat_lt forced
  have := Bool.toNat_lt assigned
  have := Bool.toNat_lt upgraded
  have number : packNat [fMode m, (6, 0), fFlag forced, fFlag assigned, fFlag upgraded] =
      modeCode m + 256 * forced.toNat + 512 * assigned.toNat + 1024 * upgraded.toNat := by
    simp only [packNat, fMode, fFlag]
    omega
  rw [pack, number]

theorem recordWords_grant {f : Nat} (hf : f < 16384) (m : Mode) (tag : BitVec 8)
    (forced assigned upgraded : Bool) :
    recordWords (.grant f m tag forced assigned upgraded) =
      ⟨1, BitVec.ofNat 32 f, BitVec.ofNat 32 tag.toNat,
        BitVec.ofNat 32 (modeCode m + 256 * forced.toNat + 512 * assigned.toNat +
          1024 * upgraded.toNat)⟩ := by
  rw [recordWords, pack_frame hf, pack_grantFlags, BitVec.ofNat_toNat]

theorem recordWords_recallNotice {f timeout : Nat} (hf : f < 16384) (q : Port) (m : Mode)
    (ht : timeout < 65536) :
    recordWords (.recallNotice f q m timeout) =
      ⟨2, BitVec.ofNat 32 f, BitVec.ofNat 32 (portNumber q + 256 * modeCode m),
        BitVec.ofNat 32 timeout⟩ := by
  have requester : pack [fPort q, (6, 0), fMode m] =
      BitVec.ofNat 32 (portNumber q + 256 * modeCode m) :=
    pack_low_gap_high 6 (portNumber_lt q) (modeCode_lt m)
  have timeoutWord : pack [fLarge timeout] = BitVec.ofNat 32 timeout := pack_single ht
  rw [recordWords, pack_frame hf, requester, timeoutWord]

theorem recordWords_revoked {f : Nat} (hf : f < 16384) (c : RevokeCause) :
    recordWords (.revoked f c) = ⟨3, BitVec.ofNat 32 f, BitVec.ofNat 32 (revokeCode c), 0⟩ := by
  rw [recordWords, pack_frame hf, pack_single (revokeCode_lt c)]

theorem recordWords_refused {f : Nat} (hf : f < 16384) (tag : BitVec 8) :
    recordWords (.refused f tag) = ⟨5, BitVec.ofNat 32 f, BitVec.ofNat 32 tag.toNat, 1⟩ := by
  rw [recordWords, pack_frame hf, BitVec.ofNat_toNat]

theorem recordWords_fault {addr burst : Nat} (ha : addr < 2097152) (c : Context) (a : Access)
    (hb : burst ≤ 8) (cause : FaultCause) :
    recordWords (.fault addr c a burst cause) =
      ⟨6, BitVec.ofNat 32 addr, BitVec.ofNat 32 (contextNumber c + 256 * accessCode a),
        BitVec.ofNat 32 (burst + 256 * causeCode cause)⟩ := by
  have address : pack [(21, addr)] = BitVec.ofNat 32 addr := pack_single ha
  have access : pack [fContext c, (7, 0), (1, accessCode a)] =
      BitVec.ofNat 32 (contextNumber c + 256 * accessCode a) :=
    pack_low_gap_high 7 (contextNumber_lt c) (accessCode_lt a)
  have outcome : pack [(4, burst), (4, 0), (4, causeCode cause)] =
      BitVec.ofNat 32 (burst + 256 * causeCode cause) :=
    pack_low_gap_high 4 (by omega) (causeCode_lt cause)
  rw [recordWords, address, access, outcome]

theorem recordWords_quarantined {f : Nat} (hf : f < 16384) (q : Port) :
    recordWords (.quarantined f q) =
      ⟨7, BitVec.ofNat 32 f, BitVec.ofNat 32 (portNumber q), 0⟩ := by
  have former : pack [fPort q] = BitVec.ofNat 32 (portNumber q) := pack_single (portNumber_lt q)
  rw [recordWords, pack_frame hf, former]

/-! ### EVENT0 to EVENT3 as they read -/

/-- The four event words are those of the queue's head (R182). -/
theorem controlRead_event (s : State) (p : Port) :
    s.controlRead p 16 = (s.headRecord p).w0 ∧ s.controlRead p 17 = (s.headRecord p).w1 ∧
      s.controlRead p 18 = (s.headRecord p).w2 ∧ s.controlRead p 19 = (s.headRecord p).w3 :=
  ⟨rfl, rfl, rfl, rfl⟩

/-- Settles O24: the words of each kind from its fields' widths, the reads from the queue's head. -/
theorem eventRecordWords : Obligations.EventRecordWords := by
  intro f hf
  refine ⟨recordWords_grant hf, fun q m _ => recordWords_recallNotice hf q m, recordWords_revoked hf,
    ?poisoned, recordWords_refused hf, fun _ c a _ cause ha hb => recordWords_fault ha c a hb cause,
    recordWords_quarantined hf, ?scrubDone, rfl, ?empty, ?waiting⟩
  case poisoned => rw [recordWords, pack_frame hf]
  case scrubDone => rw [recordWords, pack_frame hf]
  case empty =>
    intro s p empty
    have reads := controlRead_event s p
    rwa [headRecord_of_nil empty] at reads
  case waiting =>
    intro s p r rest queue
    have reads := controlRead_event s p
    rwa [headRecord_of_cons queue] at reads

end Sys2Proof.Proofs
end

section
/-! PROOFS. How a command of a port is admitted (section 10.2): what `issue` and `issueAuthority` do with it, the
form in which a command is answered, and the statements about commands that never reach their owner. In every
section of these proofs the bodies are elaborated one after another (`Elab.async`): each further worker thread
would reserve a gigabyte of the check's limit. -/

namespace Sys2Proof.Proofs
set_option Elab.async false

open Sys2Proof.Machine Sys2Proof.Safety Sys2Proof.Laws

/-! ### The answer of a command -/

/-- The write of COMMAND that is taken leaves the part answered, the result words as they were (R192). -/
theorem takeCode_eq_answered (s : State) (p : Port) (code : Word) :
    s.takeCode p code = answered s p code (s.unit p).results := rfl

theorem answered_unit (s : State) (p q : Port) (code : Word) (r : Words4) :
    (answered s p code r).unit q =
      if q = p then { s.unit p with command := code, answer := some ⟨false, []⟩, results := r }
      else s.unit q :=
  setUnit_unit s p q _

@[simp] theorem answered_unit_same (s : State) (p : Port) (code : Word) (r : Words4) :
    (answered s p code r).unit p =
      { s.unit p with command := code, answer := some ⟨false, []⟩, results := r } :=
  setUnit_unit_same s p _

theorem answered_unit_ne (s : State) {p q : Port} (code : Word) (r : Words4) (h : q ≠ p) :
    (answered s p code r).unit q = s.unit q :=
  setUnit_unit_ne s _ h

@[simp] theorem answered_entry (s : State) (p : Port) (code : Word) (r : Words4) (f : Nat) :
    (answered s p code r).entry f = s.entry f := rfl

/-- An answer keeps every field of a port unit but the three it writes. -/
theorem answered_unit_keeps {β : Type} (field : PortUnit → β)
    (h : ∀ u c a r, field { u with command := c, answer := a, results := r } = field u)
    (s : State) (p q : Port) (code : Word) (r : Words4) :
    field ((answered s p code r).unit q) = field (s.unit q) := by
  rw [answered_unit]
  split
  next e => rw [h, e]
  next => rfl

@[simp] theorem answered_online (s : State) (p q : Port) (code : Word) (r : Words4) :
    ((answered s p code r).unit q).online = (s.unit q).online :=
  answered_unit_keeps (·.online) (fun _ _ _ _ => rfl) s p q code r

@[simp] theorem answered_waiting (s : State) (p q : Port) (code : Word) (r : Words4) :
    ((answered s p code r).unit q).waiting = (s.unit q).waiting :=
  answered_unit_keeps (·.waiting) (fun _ _ _ _ => rfl) s p q code r

@[simp] theorem answered_holding (s : State) (p q : Port) (code : Word) (r : Words4) :
    ((answered s p code r).unit q).holding = (s.unit q).holding :=
  answered_unit_keeps (·.holding) (fun _ _ _ _ => rfl) s p q code r

@[simp] theorem answered_mapOf (s : State) (p q : Port) (code : Word) (r : Words4) (c : Context) :
    ((answered s p code r).unit q).mapOf c = (s.unit q).mapOf c :=
  answered_unit_keeps (·.mapOf c) (fun _ _ _ _ => by cases c <;> rfl) s p q code r

@[simp] theorem answered_mapEntry (s : State) (p q : Port) (code : Word) (r : Words4) (c : Context)
    (page : Nat) : (answered s p code r).mapEntry q c page = s.mapEntry q c page := by
  simp [State.mapEntry]

/-- The result words of an answer written again. -/
theorem setResults_answered (s : State) (p : Port) (code : Word) (r r' : Words4) :
    (answered s p code r).setResults p r' = answered s p code r' := by
  simp [State.setResults, answered]

theorem reply_answered (s : State) (p : Port) (code : Word) (r : Words4) (c : ResultCode)
    (r1 r2 r3 : Word) :
    (answered s p code r).reply p c r1 r2 r3 = answered s p code ⟨BitVec.ofNat 32 c.value, r1, r2, r3⟩ :=
  setResults_answered s p code r _

theorem refuse_answered (s : State) (p : Port) (code : Word) (r : Words4) (c : ResultCode) :
    (answered s p code r).refuse p c = answered s p code ⟨BitVec.ofNat 32 c.value, 0, 0, 0⟩ :=
  setResults_answered s p code r _

/-! ### Admission (R193) -/

section Admission

variable {α : Type} {s : State} {p : Port} {code : Word} {args : Option α} {owner : α → State → State}

theorem issue_unserved {off : Bool} (h : s.busServed p = false) :
    s.issue p code off args owner = s := by
  simp [State.issue, h]

/-- Check 2: an OFFLINE port is refused. -/
theorem issue_offline (hserved : s.busServed p = true) (h : (s.unit p).online = false) :
    s.issue p code false args owner = answered s p code ⟨3, 0, 0, 0⟩ := by
  simp only [State.issue, hserved, h, takeCode_eq_answered, refuse_answered]
  rfl

/-- Check 4: an argument out of its range is refused. -/
theorem issue_range {off : Bool} (h : Ready s p) (hargs : args = none) :
    s.issue p code off args owner = answered s p code ⟨5, 0, 0, 0⟩ := by
  simp only [State.issue, h.1, h.2, hargs, takeCode_eq_answered, refuse_answered]
  rfl

/-- A command that passes its checks is its owner's, taken on the part with the code written. -/
theorem issue_owner {off : Bool} {a : α} (hserved : s.busServed p = true)
    (h : (s.unit p).online = true ∨ off = true) (hargs : args = some a) :
    s.issue p code off args owner = owner a (answered s p code (s.unit p).results) := by
  rcases h with h | h <;> simp [State.issue, hserved, h, hargs, takeCode_eq_answered]

theorem issue_ready {off : Bool} {a : α} (h : Ready s p) (hargs : args = some a) :
    s.issue p code off args owner = owner a (answered s p code (s.unit p).results) :=
  issue_owner h.1 (.inl h.2) hargs

theorem issueAuthority_unserved (h : s.busServed p = false) :
    s.issueAuthority p code args owner = s := by
  simp [State.issueAuthority, h]

theorem issueAuthority_offline (hserved : s.busServed p = true) (h : (s.unit p).online = false) :
    s.issueAuthority p code args owner = answered s p code ⟨3, 0, 0, 0⟩ := by
  simp only [State.issueAuthority, hserved, h, takeCode_eq_answered, refuse_answered]
  rfl

/-- Check 3: a port without the token is denied. -/
theorem issueAuthority_denied (h : Ready s p) (htoken : s.token ≠ some p) :
    s.issueAuthority p code args owner = answered s p code ⟨4, 0, 0, 0⟩ := by
  rw [State.issueAuthority, if_pos h.1, h.2, if_neg (by decide), if_pos htoken, takeCode_eq_answered,
    refuse_answered]
  rfl

/-- Check 4 of an authority command: refused, and the lease renewed all the same (R143). -/
theorem issueAuthority_range (h : ReadyWithToken s p) (hargs : args = none) :
    s.issueAuthority p code args owner = renewed (answered s p code ⟨5, 0, 0, 0⟩) := by
  obtain ⟨⟨hserved, honline⟩, htoken⟩ := h
  rw [State.issueAuthority, if_pos hserved, honline, if_neg (by decide), if_neg (not_not_intro htoken),
    hargs, takeCode_eq_answered, refuse_answered]
  rfl

theorem issueAuthority_ready {a : α} (h : ReadyWithToken s p) (hargs : args = some a) :
    s.issueAuthority p code args owner = renewed (owner a (answered s p code (s.unit p).results)) := by
  obtain ⟨⟨hserved, honline⟩, htoken⟩ := h
  simp [State.issueAuthority, hserved, honline, htoken, hargs, takeCode_eq_answered]
  rfl

end Admission

/-- Every command of the table but BAD_COMMAND is issued through the checks of R193, ATTACH and PROBE_FRAME
from an OFFLINE port too, the authority commands through the check of the token. -/
theorem exec_command {i : Instr} {code : Word} {p : Port} (s : State) (hcode : codeOf i = some code)
    (hport : portOf i = some p) (hbad : ∀ v, i ≠ .badCommand p v) :
    (∃ (α : Type) (off : Bool) (args : Option α) (owner : α → State → State),
      exec i s = .next (s.issue p code off args owner) ∧
        (off = true → i = .attach p ∨ i = .probeFrame p)) ∨
    (∃ (α : Type) (args : Option α) (owner : α → State → State),
      exec i s = .next (s.issueAuthority p code args owner)) := by
  cases i <;> cases hcode <;> cases hport
  case badCommand => exact absurd rfl (hbad _)
  case attach => exact .inl ⟨_, _, _, _, rfl, fun _ => .inl rfl⟩
  case probeFrame => exact .inl ⟨_, _, _, _, rfl, fun _ => .inr rfl⟩
  case renewAuthority => exact .inr ⟨_, _, _, rfl⟩
  case assign => exact .inr ⟨_, _, _, rfl⟩
  case forceRelease => exact .inr ⟨_, _, _, rfl⟩
  case pin => exact .inr ⟨_, _, _, rfl⟩
  case unpin => exact .inr ⟨_, _, _, rfl⟩
  case scrub => exact .inr ⟨_, _, _, rfl⟩
  case unquarantine => exact .inr ⟨_, _, _, rfl⟩
  case mapSetFor => exact .inr ⟨_, _, _, rfl⟩
  case mapClearFor => exact .inr ⟨_, _, _, rfl⟩
  case setParameter => exact .inr ⟨_, _, _, rfl⟩
  all_goals exact .inl ⟨_, _, _, _, rfl, nofun⟩

/-! ### The bus that is not served (R164) -/

/-- A transaction on a bus that is not served changes nothing, whatever its row. -/
theorem exec_unserved {i : Instr} {p : Port} {s : State} (hport : portOf i = some p)
    (hreset : i ≠ .portReset p) (hrelease : i ≠ .prstnRelease p) (h : s.busServed p = false) :
    exec i s = .next s := by
  have control : ∀ effect, s.writeControl p effect = s := fun _ => by simp [State.writeControl, h]
  have command : ∀ code, codeOf i = some code → (∀ v, i ≠ .badCommand p v) → exec i s = .next s := by
    intro code hcode hbad
    rcases exec_command s hcode hport hbad with ⟨_, _, _, _, hexec, _⟩ | ⟨_, _, _, hexec⟩
    · rw [hexec, issue_unserved h]
    · rw [hexec, issueAuthority_unserved h]
  cases i <;> cases hport
  case portReset => exact absurd rfl hreset
  case prstnRelease => exact absurd rfl hrelease
  case badCommand code => simp [exec, execBadCommand, h]
  case portStatusWrite => exact congrArg _ (control _)
  case intEnableWrite => exact congrArg _ (control _)
  case eventPop => exact congrArg _ (control _)
  case registerWrite => simp [exec, execRegisterWrite, control]
  case controlAccessError => simp [exec, execControlAccessError, h]
  case windowAccess => simp [exec, execWindowAccess, h]
  all_goals exact command _ rfl nofun

/-- Settles O19: the bus that is not served by the row's own guard, the OFFLINE port by check 2. -/
theorem unservedOrOfflinePortChangesNothing : Obligations.UnservedOrOfflinePortChangesNothing := by
  refine ⟨fun i p s hport hreset hrelease h => exec_unserved hport hreset hrelease h, ?_⟩
  intro i code p s hcode hport hbad hattach hprobe hserved hoffline
  rcases exec_command s hcode hport hbad with ⟨_, off, _, _, hexec, hoff⟩ | ⟨_, _, _, hexec⟩
  · have honline : off = false := by
      by_contra h
      rcases hoff (by simpa using h) with h | h
      · exact hattach h
      · exact hprobe h
    rw [hexec, honline, issue_offline hserved hoffline]
  · rw [hexec, issueAuthority_offline hserved hoffline]

/-! ### Arguments and their ranges (R193 check 4, R197) -/

theorem frameArg_of_lt {s : State} {v : Nat} (h : v < s.frames) : frameArg s v = some v := if_pos h

theorem frameArg_of_le {s : State} {v : Nat} (h : s.frames ≤ v) : frameArg s v = none :=
  if_neg (Nat.not_lt.2 h)

theorem modeArg_modeCode (m : Mode) : modeArg (modeCode m) = some m := by
  cases m <;> rfl

theorem modeArg_outside {v : Nat} (h : v = 0 ∨ 2 < v) : modeArg v = none := by
  unfold modeArg
  split <;> first | rfl | omega

theorem tagArg_toNat (t : BitVec 8) : tagArg t.toNat = some t := by
  simp [tagArg, t.isLt]

theorem tagArg_outside {v : Nat} (h : 255 < v) : tagArg v = none := if_neg (by omega)

theorem flagArg_toNat (b : Bool) : flagArg b.toNat = some b := by
  cases b <;> rfl

theorem flagArg_outside {v : Nat} (h : 1 < v) : flagArg v = none := by
  unfold flagArg
  split <;> first | rfl | omega

theorem contextArg_contextNumber (c : Context) : contextArg (contextNumber c) = some c := by
  cases c <;> rfl

theorem contextArg_outside {v : Nat} (h : 1 < v) : contextArg v = none := by
  unfold contextArg
  split <;> first | rfl | omega

theorem pageArg_of_lt {v : Nat} (h : v < 512) : pageArg v = some v := if_pos h

theorem pageArg_outside {v : Nat} (h : 511 < v) : pageArg v = none := if_neg (by omega)

theorem portOfNumber_portNumber (p : Port) : portOfNumber (portNumber p) = some p := by
  cases p <;> rfl

theorem portOfNumber_outside {v : Nat} (h : 3 < v) : portOfNumber v = none := by
  unfold portOfNumber
  split <;> first | rfl | omega

/-- A sequence of argument checks fails where its first check does. -/
theorem bind_none_of_left {α β : Type} {x : Option α} {f : α → Option β} (h : x = none) :
    x.bind f = none := by
  rw [h]
  rfl

/-- A sequence of argument checks fails where a later check does, whatever the first one gives. -/
theorem bind_none_of_right {α β : Type} {x : Option α} {f : α → Option β} (h : ∀ a, f a = none) :
    x.bind f = none := by
  cases x with
  | none => rfl
  | some a => exact h a

section Ranges

variable {s : State} {p : Port}

theorem claimArgs_some {f : Nat} {m : Mode} {tag : BitVec 8} (h0 : s.arg p 0 = f) (hf : f < s.frames)
    (h1 : s.arg p 1 = modeCode m) (h2 : s.arg p 2 = tag.toNat) :
    claimArgs s p = some (f, m, tag) := by
  simp [claimArgs, h0, h1, h2, frameArg_of_lt hf, modeArg_modeCode, tagArg_toNat]

theorem claimArgs_none (h : s.frames ≤ s.arg p 0 ∨ s.arg p 1 = 0 ∨ 2 < s.arg p 1 ∨ 255 < s.arg p 2) :
    claimArgs s p = none := by
  have hmode : s.arg p 1 = 0 ∨ 2 < s.arg p 1 → modeArg (s.arg p 1) = none := modeArg_outside
  rcases h with h | h | h | h
  · exact bind_none_of_left (frameArg_of_le h)
  · exact bind_none_of_right fun _ => bind_none_of_left (hmode (.inl h))
  · exact bind_none_of_right fun _ => bind_none_of_left (hmode (.inr h))
  · exact bind_none_of_right fun _ => bind_none_of_right fun _ => bind_none_of_left (tagArg_outside h)

theorem releaseArgs_some {f : Nat} {clear : Bool} (h0 : s.arg p 0 = f) (hf : f < s.frames)
    (h1 : s.arg p 1 = clear.toNat) : releaseArgs s p = some (f, clear) := by
  simp [releaseArgs, h0, h1, frameArg_of_lt hf, flagArg_toNat]

theorem releaseArgs_none (h : s.frames ≤ s.arg p 0 ∨ 1 < s.arg p 1) : releaseArgs s p = none := by
  rcases h with h | h
  · exact bind_none_of_left (frameArg_of_le h)
  · exact bind_none_of_right fun _ => bind_none_of_left (flagArg_outside h)

theorem frameArgs_some {f : Nat} (h0 : s.arg p 0 = f) (hf : f < s.frames) :
    frameArgs s p = some f := by
  rw [frameArgs, h0, frameArg_of_lt hf]

theorem frameArgs_none (h : s.frames ≤ s.arg p 0) : frameArgs s p = none := frameArg_of_le h

theorem contextArgs_some {c : Context} (h0 : s.arg p 0 = contextNumber c) :
    contextArgs s p = some c := by
  rw [contextArgs, h0, contextArg_contextNumber]

theorem contextArgs_none (h : 1 < s.arg p 0) : contextArgs s p = none := contextArg_outside h

theorem pageArgs_some {c : Context} {page : Nat} (h0 : s.arg p 0 = contextNumber c)
    (h1 : s.arg p 1 = page) (hpage : page < 512) : pageArgs s p = some (c, page) := by
  simp [pageArgs, h0, h1, contextArg_contextNumber, pageArg_of_lt hpage]

theorem pageArgs_none (h : 1 < s.arg p 0 ∨ 511 < s.arg p 1) : pageArgs s p = none := by
  rcases h with h | h
  · exact bind_none_of_left (contextArg_outside h)
  · exact bind_none_of_right fun _ => bind_none_of_left (pageArg_outside h)

theorem mapSetArgs_some {c : Context} {page f : Nat} {write : Bool} (h0 : s.arg p 0 = contextNumber c)
    (h1 : s.arg p 1 = page) (hpage : page < 512) (h2 : s.arg p 2 = f) (hf : f < s.frames)
    (h3 : s.arg p 3 = write.toNat) : mapSetArgs s p = some (c, page, f, write) := by
  simp [mapSetArgs, h0, h1, h2, h3, contextArg_contextNumber, pageArg_of_lt hpage, frameArg_of_lt hf,
    flagArg_toNat]

theorem mapSetArgs_none
    (h : 1 < s.arg p 0 ∨ 511 < s.arg p 1 ∨ s.frames ≤ s.arg p 2 ∨ 1 < s.arg p 3) :
    mapSetArgs s p = none := by
  rcases h with h | h | h | h
  · exact bind_none_of_left (contextArg_outside h)
  · exact bind_none_of_right fun _ => bind_none_of_left (pageArg_outside h)
  · exact bind_none_of_right fun _ => bind_none_of_right fun _ => bind_none_of_left (frameArg_of_le h)
  · exact bind_none_of_right fun _ => bind_none_of_right fun _ => bind_none_of_right fun _ =>
      bind_none_of_left (flagArg_outside h)

theorem assignArgs_some {f : Nat} {q : Port} {m : Mode} (h0 : s.arg p 0 = f) (hf : f < s.frames)
    (h1 : s.arg p 1 = portNumber q) (h2 : s.arg p 2 = modeCode m) :
    assignArgs s p = some (f, q, m) := by
  simp [assignArgs, h0, h1, h2, frameArg_of_lt hf, portOfNumber_portNumber, modeArg_modeCode]

theorem assignArgs_none
    (h : s.frames ≤ s.arg p 0 ∨ 3 < s.arg p 1 ∨ s.arg p 2 = 0 ∨ 2 < s.arg p 2) :
    assignArgs s p = none := by
  rcases h with h | h | h
  · exact bind_none_of_left (frameArg_of_le h)
  · exact bind_none_of_right fun _ => bind_none_of_left (portOfNumber_outside h)
  · exact bind_none_of_right fun _ => bind_none_of_right fun _ => bind_none_of_left (modeArg_outside h)

theorem forceArgs_some {f : Nat} {q : Port} (h0 : s.arg p 0 = f) (hf : f < s.frames)
    (h1 : s.arg p 1 = portNumber q) : forceArgs s p = some (f, q) := by
  simp [forceArgs, h0, h1, frameArg_of_lt hf, portOfNumber_portNumber]

theorem forceArgs_none (h : s.frames ≤ s.arg p 0 ∨ 3 < s.arg p 1) : forceArgs s p = none := by
  rcases h with h | h
  · exact bind_none_of_left (frameArg_of_le h)
  · exact bind_none_of_right fun _ => bind_none_of_left (portOfNumber_outside h)

theorem mapSetForArgs_some {q : Port} {c : Context} {page f : Nat} {write : Bool}
    (h0 : s.arg p 0 = portNumber q) (h1 : s.arg p 1 = contextNumber c) (h2 : s.arg p 2 = page)
    (hpage : page < 512) (h3 : s.arg p 3 = f + 65536 * write.toNat) (hf : f < s.frames)
    (hlow : f < 65536) : mapSetForArgs s p = some (q, c, page, f, write) := by
  have hframe : s.arg p 3 % 65536 = f := by omega
  have hwrite : s.arg p 3 / 65536 = write.toNat := by omega
  simp [mapSetForArgs, h0, h1, h2, hframe, hwrite, portOfNumber_portNumber, contextArg_contextNumber,
    pageArg_of_lt hpage, frameArg_of_lt hf, flagArg_toNat]

theorem mapSetForArgs_none
    (h : (3 < s.arg p 0 ∨ 1 < s.arg p 1 ∨ 511 < s.arg p 2) ∨
      s.frames ≤ s.arg p 3 % 65536 ∨ 1 < s.arg p 3 / 65536) : mapSetForArgs s p = none := by
  rcases h with (h | h | h) | h | h
  · exact bind_none_of_left (portOfNumber_outside h)
  · exact bind_none_of_right fun _ => bind_none_of_left (contextArg_outside h)
  · exact bind_none_of_right fun _ => bind_none_of_right fun _ => bind_none_of_left (pageArg_outside h)
  · exact bind_none_of_right fun _ => bind_none_of_right fun _ => bind_none_of_right fun _ =>
      bind_none_of_left (frameArg_of_le h)
  · exact bind_none_of_right fun _ => bind_none_of_right fun _ => bind_none_of_right fun _ =>
      bind_none_of_right fun _ => bind_none_of_left (flagArg_outside h)

theorem mapClearForArgs_some {q : Port} {c : Context} {page : Nat} (h0 : s.arg p 0 = portNumber q)
    (h1 : s.arg p 1 = contextNumber c) (h2 : s.arg p 2 = page) (hpage : page < 512) :
    mapClearForArgs s p = some (q, c, page) := by
  simp [mapClearForArgs, h0, h1, h2, portOfNumber_portNumber, contextArg_contextNumber,
    pageArg_of_lt hpage]

theorem mapClearForArgs_none (h : 3 < s.arg p 0 ∨ 1 < s.arg p 1 ∨ 511 < s.arg p 2) :
    mapClearForArgs s p = none := by
  rcases h with h | h | h
  · exact bind_none_of_left (portOfNumber_outside h)
  · exact bind_none_of_right fun _ => bind_none_of_left (contextArg_outside h)
  · exact bind_none_of_right fun _ => bind_none_of_right fun _ => bind_none_of_left (pageArg_outside h)

end Ranges

/-- Settles O20: each command's argument reader fails, and check 4 refuses it. -/
theorem argumentsOutOfRangeRefused : Obligations.ArgumentsOutOfRangeRefused := by
  intro p s hready
  have refused : ∀ {α : Type} {code : Word} {off : Bool} {args : Option α}
      {owner : α → State → State}, args = none →
      (.next (s.issue p code off args owner) : Host.Outcome State Fault Refusal) =
        .next (answered s p code ⟨5, 0, 0, 0⟩) :=
    fun hargs => congrArg _ (issue_range hready hargs)
  exact ⟨fun h => refused (claimArgs_none h), fun h => refused (frameArgs_none h),
    fun h => refused (frameArgs_none h), fun h => refused (releaseArgs_none h),
    fun h => ⟨refused (contextArgs_none h), refused (contextArgs_none h)⟩,
    fun h => refused (mapSetArgs_none h),
    fun h => ⟨refused (pageArgs_none h), refused (pageArgs_none h)⟩⟩

/-! ### Authority commands (R143, R145, R193 check 3) -/

/-- RELEASE_AUTHORITY has its own check of the token, and renews no lease (R145). -/
theorem exec_releaseAuthority_denied {s : State} {p : Port} (hready : Ready s p)
    (htoken : s.token ≠ some p) :
    exec (.releaseAuthority p) s = .next (answered s p 0x32 ⟨4, 0, 0, 0⟩) := by
  refine congrArg Host.Outcome.next ((issue_ready hready rfl).trans ?_)
  exact (if_neg htoken).trans (refuse_answered s p _ _ _)

/-- Settles O21: check 3 denies without the token; with it a failed argument reader is refused and renews. -/
theorem authorityCommandsGuarded : Obligations.AuthorityCommandsGuarded := by
  have denied : ∀ {s p} {α : Type} {code : Word} {args : Option α} {owner : α → State → State},
      Ready s p → s.token ≠ some p →
      (.next (s.issueAuthority p code args owner) : Host.Outcome State Fault Refusal) =
        .next (answered s p code ⟨4, 0, 0, 0⟩) :=
    fun hready htoken => congrArg _ (issueAuthority_denied hready htoken)
  have refused : ∀ {s p} {α : Type} {code : Word} {args : Option α} {owner : α → State → State},
      ReadyWithToken s p → args = none →
      (.next (s.issueAuthority p code args owner) : Host.Outcome State Fault Refusal) =
        .next (renewed (answered s p code ⟨5, 0, 0, 0⟩)) :=
    fun hready hargs => congrArg _ (issueAuthority_range hready hargs)
  refine ⟨?denied, ?frames, ?maps, fun p s hready => ⟨fun h => refused hready (assignArgs_none (.inr h)),
    fun h => refused hready (forceArgs_none (.inr h)),
    fun h => refused hready (mapSetForArgs_none (.inr h))⟩⟩
  case denied =>
    intro i code p s hcode _ hi hready htoken
    simp only [List.mem_cons, List.not_mem_nil, or_false] at hi
    rcases hi with rfl | rfl | rfl | rfl | rfl | rfl | rfl | rfl | rfl | rfl | rfl <;> cases hcode
    case inr.inl => exact exec_releaseAuthority_denied hready htoken
    all_goals exact denied hready htoken
  case frames =>
    intro i code p s hcode _ hi hready h
    simp only [List.mem_cons, List.not_mem_nil, or_false] at hi
    rcases hi with rfl | rfl | rfl | rfl | rfl | rfl <;> cases hcode
    · exact refused hready (assignArgs_none (.inl h))
    · exact refused hready (forceArgs_none (.inl h))
    all_goals exact refused hready (frameArgs_none h)
  case maps =>
    intro i code p s hcode _ hi hready h
    simp only [List.mem_cons, List.not_mem_nil, or_false] at hi
    rcases hi with rfl | rfl <;> cases hcode
    · exact refused hready (mapSetForArgs_none (.inl h))
    · exact refused hready (mapClearForArgs_none h)

end Sys2Proof.Proofs
end

section
/-! PROOFS. The answer of a command stands apart from the directory: each shared operation of the directory does
the same before and after a command is answered, so a command's effect can be told of the part as it stood. -/

namespace Sys2Proof.Proofs
set_option Elab.async false

open Sys2Proof.Machine Sys2Proof.Safety Sys2Proof.Laws

theorem perPort_set_comm {α : Type} (v : PerPort α) {p q : Port} (a b : α) (h : q ≠ p) :
    (v.set p a).set q b = (v.set q b).set p a := by
  apply perPort_ext
  intro x
  simp only [perPort_get_set]
  split
  next hq =>
    rw [if_neg (hq ▸ h)]
  next => rfl

theorem setUnit_comm (s : State) {p q : Port} (u v : PortUnit) (h : q ≠ p) :
    (s.setUnit p u).setUnit q v = (s.setUnit q v).setUnit p u := by
  simp only [State.setUnit, perPort_set_comm _ u v h]

/-- A port unit with a command's answer in it. -/
def answeredWith (u : PortUnit) (code : Word) (r : Words4) : PortUnit :=
  { u with command := code, answer := some ⟨false, []⟩, results := r }

theorem answered_eq_setUnit (s : State) (p : Port) (code : Word) (r : Words4) :
    answered s p code r = s.setUnit p (answeredWith (s.unit p) code r) := rfl

/-- A unit edit that does not look at the answer can be made before or after it. -/
theorem setUnit_answered {edit : PortUnit → PortUnit} {code : Word} {r : Words4}
    (h : ∀ u, edit (answeredWith u code r) = answeredWith (edit u) code r)
    (s : State) (p q : Port) :
    (answered s p code r).setUnit q (edit ((answered s p code r).unit q)) =
      answered (s.setUnit q (edit (s.unit q))) p code r := by
  by_cases hq : q = p
  · subst hq
    simp only [answered_eq_setUnit, setUnit_unit_same, setUnit_setUnit_same, h]
  · simp only [answered_eq_setUnit, setUnit_unit_ne _ _ hq, setUnit_unit_ne _ _ (Ne.symm hq),
      setUnit_comm _ _ _ hq]

/-! ### One lemma an operation -/

section Operations

variable (s : State) (p : Port) (code : Word) (r : Words4)

theorem putEntry_answered (f : Nat) (e : Entry) :
    (answered s p code r).putEntry f e = answered (s.putEntry f e) p code r := by
  cases p <;> rfl

theorem postUnit_answeredWith (u : PortUnit) (x : EventRecord) :
    postUnit (answeredWith u code r) x = answeredWith (postUnit u x) code r := by
  by_cases online : u.online = true
  · by_cases room : u.events.length < 16 <;> simp [postUnit, answeredWith, online, room]
  · simp [postUnit, answeredWith, online]

theorem post_answered (q : Port) (x : EventRecord) :
    (answered s p code r).post q x = answered (s.post q x) p code r :=
  setUnit_answered (edit := fun u => postUnit u x) (fun u => postUnit_answeredWith code r u x) s p q

theorem postList_answered (l : List Port) (x : EventRecord) :
    (answered s p code r).postList l x = answered (s.postList l x) p code r := by
  induction l generalizing s with
  | nil => rfl
  | cons q rest ih =>
    have first := post_answered s p code r q x
    exact (congrArg (State.postList · rest x) first).trans (ih (s.post q x))

theorem postSet_answered (ps : PortSet) (x : EventRecord) :
    (answered s p code r).postSet ps x = answered (s.postSet ps x) p code r :=
  postList_answered s p code r _ x

theorem returnRecord_answered (q : Port) :
    (answered s p code r).returnRecord q = answered (s.returnRecord q) p code r :=
  congrArg (fun t : State => { t with poolFree := t.poolFree + 1 })
    (setUnit_answered (edit := fun u => { u with waiting := u.waiting - 1 }) (fun _ => rfl) s p q)

theorem takeRecord_answered (q : Port) :
    (answered s p code r).takeRecord q = answered (s.takeRecord q) p code r :=
  congrArg (fun t : State => { t with poolFree := t.poolFree - 1, arrival := t.arrival + 1 })
    (setUnit_answered (edit := fun u => { u with waiting := u.waiting + 1 }) (fun _ => rfl) s p q)

theorem startRecall_answered (f : Nat) (i : Fin 8) :
    (answered s p code r).startRecall f i = answered (s.startRecall f i) p code r := by
  have entry := answered_entry s p code r f
  simp only [State.startRecall, entry]
  split
  · rfl
  next h _ _ =>
    let s1 : State := { s with recalls := s.recalls.set i (some
      { frame := f, requester := h.port, wanted := h.mode, toRelease := toReleaseOf (s.entry f),
        deadline := s.now + s.recallTimeout * 10 }) }
    have put := putEntry_answered s1 p code r f { s.entry f with recallField := .active i }
    have post := postSet_answered (s1.putEntry f { s.entry f with recallField := .active i }) p code r
      (toReleaseOf (s.entry f)) (.recallNotice f h.port h.mode s.recallTimeout)
    exact (congrArg (State.postSet · _ _) put).trans post

theorem deferRecall_answered (f : Nat) :
    (answered s p code r).deferRecall f = answered (s.deferRecall f) p code r := by
  simp only [State.deferRecall, answered_entry]
  split
  · rfl
  next h _ _ =>
    exact putEntry_answered { s with deferred := placeDeferred ⟨f, h.seq⟩ s.deferred } p code r f _

theorem ensureRecall_answered (f : Nat) :
    (answered s p code r).ensureRecall f = answered (s.ensureRecall f) p code r := by
  have free : (answered s p code r).freeRecall = s.freeRecall := rfl
  simp only [State.ensureRecall, answered_entry, free]
  split
  · split
    · exact startRecall_answered s p code r f _
    · exact deferRecall_answered s p code r f
  · rfl
  · rfl

theorem feedDeferred_answered (i : Fin 8) (l : List Deferred) :
    State.feedDeferred i l (answered s p code r) = answered (State.feedDeferred i l s) p code r := by
  induction l generalizing s with
  | nil => rfl
  | cons d rest ih =>
    by_cases needed : needsRecall (s.entry d.frame) = true
    · rw [feedDeferred_needed needed, feedDeferred_needed (s := answered s p code r) needed]
      exact startRecall_answered { s with deferred := rest } p code r d.frame i
    · have dropped : needsRecall (s.entry d.frame) = false := by simpa using needed
      rw [feedDeferred_dropped dropped, feedDeferred_dropped (s := answered s p code r) dropped,
        answered_entry, putEntry_answered, ih]

theorem dropRecall_answered (f : Nat) :
    (answered s p code r).dropRecall f = answered (s.dropRecall f) p code r := by
  simp only [State.dropRecall, answered_entry]
  split
  · rfl
  · exact putEntry_answered { s with deferred := s.deferred.filter (fun d => d.frame != f) } p code r f _
  next i _ =>
    let s1 : State := { s with recalls := s.recalls.set i none }
    have put := putEntry_answered s1 p code r f { s.entry f with recallField := .none }
    exact (congrArg (fun t : State => State.feedDeferred i t.deferred t) put).trans
      (feedDeferred_answered _ p code r i _)

theorem leaveToRelease_answered (f : Nat) (q : Port) :
    (answered s p code r).leaveToRelease f q =
      (answered (s.leaveToRelease f q).1 p code r, (s.leaveToRelease f q).2) := by
  have record : (answered s p code r).recallOf f = s.recallOf f := rfl
  simp only [State.leaveToRelease, record]
  split
  · rfl
  · split
    · split
      · rw [dropRecall_answered]
      · rfl
    · rfl

theorem leave_answered (f : Nat) (q : Port) :
    (answered s p code r).leave f q = (answered (s.leave f q).1 p code r, (s.leave f q).2) := by
  simp only [State.leave, answered_entry, putEntry_answered, leaveToRelease_answered]

theorem grantHead_answered (f : Nat) (h : WaitRec) (forced upgraded : Bool) :
    (answered s p code r).grantHead f h forced upgraded =
      answered (s.grantHead f h forced upgraded) p code r := by
  simp only [State.grantHead, answered_entry, putEntry_answered, returnRecord_answered,
    dropRecall_answered, post_answered]

theorem advanceFuel_answered (forced : Bool) (f n : Nat) :
    State.advanceFuel forced f n (answered s p code r) =
      answered (State.advanceFuel forced f n s) p code r := by
  induction n generalizing s with
  | zero => rfl
  | succ n ih =>
    simp only [State.advanceFuel, answered_entry, grantHead_answered, ensureRecall_answered, ih]
    split
    · rfl
    · split
      · rfl
      · rfl
      · rfl
      · split
        · rfl
        · split <;> rfl
      all_goals rfl

theorem advance_answered (forced : Bool) (f : Nat) :
    (answered s p code r).advance forced f = answered (s.advance forced f) p code r :=
  advanceFuel_answered s p code r forced f _

theorem afterLeaving_answered (forced : Bool) (f : Nat) :
    (answered s p code r).afterLeaving forced f = answered (s.afterLeaving forced f) p code r := by
  simp only [State.afterLeaving, answered_entry, putEntry_answered, advance_answered]
  split
  · split <;> rfl
  · rfl

theorem withdraw_answered (f : Nat) (q : Port) :
    (answered s p code r).withdraw f q = answered (s.withdraw f q) p code r := by
  simp only [State.withdraw, answered_entry, putEntry_answered, returnRecord_answered,
    dropRecall_answered, advance_answered]
  split <;> rfl

/-- An append that posts no burst to an IDLE memory port: the engine is ACTIVE, or the port is busy. -/
theorem appendScrub_answered (f : Nat) (origin : Origin) (notify : Option Port)
    (h : s.scrubQueue ≠ [] ∨ s.memPort ≠ .idle) :
    (answered s p code r).appendScrub f origin notify =
      answered (s.appendScrub f origin notify) p code r := by
  have queue : (answered s p code r).scrubQueue = s.scrubQueue := rfl
  simp only [State.appendScrub, queue, answered_entry, putEntry_answered]
  split
  next hempty =>
    have busy : s.memPort ≠ .idle := h.resolve_left (not_not_intro (List.isEmpty_iff.1 hempty))
    simp only [State.postScrub, State.posted]
    rw [if_neg (by exact busy), if_neg (by exact busy)]
    rfl
  next => rfl

end Operations

end Sys2Proof.Proofs
end

section
/-! PROOFS. Time and encodings: the step itself and the tick, the command codes (R197), the packing of result
words (R199). -/

namespace Sys2Proof.Proofs
set_option Elab.async false

open Sys2Proof.Machine Sys2Proof.Safety Sys2Proof.Laws

/-- Settles O1, by the definition of a step. -/
theorem stepRunsFrontCommand : Obligations.StepRunsFrontCommand := by
  intro c rest s h
  rw [step, h]

/-! ### The tick -/

theorem placeByRank_perm (rank : Nat → Nat) (x : Nat) (l : List Nat) :
    (placeByRank rank x l).Perm (x :: l) := by
  induction l with
  | nil => exact List.Perm.refl _
  | cons y t ih =>
    rw [placeByRank]
    split
    · exact List.Perm.refl _
    · exact (ih.cons y).trans (List.Perm.swap x y t)

/-- A free order is an order of the same things (log 3, log 4). -/
theorem sortByRank_perm (rank : Nat → Nat) (l : List Nat) : (sortByRank rank l).Perm l := by
  induction l with
  | nil => exact List.Perm.refl _
  | cons x t ih => exact (placeByRank_perm rank x _).trans (ih.cons x)

theorem freeOrder_perm (s : State) (l : List Nat) : (s.freeOrder l).Perm l := sortByRank_perm _ l

/-- The records of the recall table, read by their indices. -/
theorem recalls_toList {α : Type} (v : Vector α 8) : v.toList = (List.finRange 8).map v.get := by
  apply List.ext_getElem
  · simp
  · intro i h _
    simp [Vector.get, Vector.getElem_toList]

/-- The deadlines reached, as commands. -/
theorem dueFrames_commands (s : State) :
    s.dueFrames.map (fun f => dueCommand (f + 3)) =
      (List.finRange 8).filterMap (fun i =>
        match s.recalls.get i with
        | some r => if r.deadline ≤ s.now then some (.recallDeadline r.frame) else none
        | none => none) := by
  rw [State.dueFrames, recalls_toList, List.filterMap_map, List.map_filterMap]
  apply List.filterMap_congr
  intro i _
  simp only [Function.comp]
  cases s.recalls.get i with
  | none => rfl
  | some r =>
    by_cases h : r.deadline ≤ s.now <;> simp [h, dueCommand]

/-- Settles O2: the tick's queue is a free order of the events due at the raised time. -/
theorem idleStepLetsTimePass : Obligations.IdleStepLetsTimePass := by
  intro s hidle
  have ticks : step s = .next s.tick := by rw [step, hidle]
  refine ⟨fun hrst => ?_, fun hrst => ?_⟩
  · rw [ticks, State.tick, if_pos (by exact hrst)]
  · let t : State := { s with now := s.now + 1 }
    refine ⟨(t.freeOrder t.dueCodes).map dueCommand, ?_, ?_⟩
    · refine ((freeOrder_perm t t.dueCodes).map dueCommand).trans (List.Perm.of_eq ?_)
      have lease : (s.token.isSome && decide (s.leaseDeadline ≤ s.now + 1)) = true ↔
          s.token ≠ none ∧ s.leaseDeadline ≤ s.now + 1 := by
        simp [Option.isSome_iff_ne_none]
      simp only [State.dueCodes, List.map_append, List.map_map, t, lease, apply_ite (List.map dueCommand)]
      exact congrArg _ (dueFrames_commands t)
    · rw [ticks, State.tick, if_neg (by simp [hrst])]
      simp [State.nextDraw, State.freeOrder, hidle, t]

/-! ### The command codes (R197) -/

/-- A value that names a command is that command's code, and any other value is BAD_COMMAND's. -/
theorem issueOf_cases (p : Port) (v : Word) :
    (codeOf (issueOf p v) = some v ∧ portOf (issueOf p v) = some p ∧
      (issueOf p v).wellFormed = true) ∨ issueOf p v = .badCommand p v := by
  have value : ∀ {w : Word}, v.toNat = w.toNat → w = v := fun h => (BitVec.eq_of_toNat_eq h).symm
  unfold issueOf
  split
  case h_24 => exact .inr rfl
  all_goals
    next h =>
      refine .inl ⟨congrArg some (value ?_), rfl, rfl⟩
      exact h

/-- A well-formed row with a code is the row that its code issues. -/
theorem issueOf_codeOf {i : Instr} {p : Port} {v : Word} (hwf : i.wellFormed = true)
    (hport : portOf i = some p) (hcode : codeOf i = some v) : issueOf p v = i := by
  cases i <;> cases hcode <;> cases hport
  case badCommand => exact eq_of_beq hwf
  all_goals rfl

/-- Settles O22: a written value's row has its code, and a row's code issues it. -/
theorem commandCodesRoundTrip : Obligations.CommandCodesRoundTrip := by
  refine ⟨fun p v => ?_, fun i p v hwf hport hcode => issueOf_codeOf hwf hport hcode⟩
  rcases issueOf_cases p v with known | bad
  · exact known
  · rw [bad]
    exact ⟨rfl, rfl, by simp [Instr.wellFormed, codeIsBad, bad]⟩

/-! ### Packing (R199) -/

/-- A packing is below the width of its fields. -/
theorem packNat_lt (l : List (Nat × Nat)) : packNat l < 2 ^ (l.map Prod.fst).sum := by
  induction l with
  | nil => decide
  | cons c t ih =>
    obtain ⟨w, v⟩ := c
    have low : v % 2 ^ w < 2 ^ w := Nat.mod_lt _ (Nat.two_pow_pos w)
    rw [packNat, List.map_cons, List.sum_cons, Nat.pow_add]
    calc v % 2 ^ w + 2 ^ w * packNat t
        < 2 ^ w * (packNat t + 1) := by rw [Nat.mul_add]; omega
      _ ≤ 2 ^ w * 2 ^ (t.map Prod.fst).sum := Nat.mul_le_mul_left _ ih

/-- Fields packed after others stand above them. -/
theorem packNat_append (l t : List (Nat × Nat)) :
    packNat (l ++ t) = packNat l + 2 ^ (l.map Prod.fst).sum * packNat t := by
  induction l with
  | nil => simp [packNat]
  | cons c rest ih =>
    obtain ⟨w, v⟩ := c
    rw [List.cons_append, packNat, packNat, ih, List.map_cons, List.sum_cons, Nat.pow_add]
    ring

/-- Settles O23: the fields before stand below the place, the ones behind above the field. -/
theorem packPlacesFields : Obligations.PackPlacesFields := by
  intro before after w v hfit
  have bound := packNat_lt (before ++ (w, v) :: after)
  have total : ((before ++ (w, v) :: after).map Prod.fst).sum ≤ 32 := by
    simp only [List.map_append, List.sum_append, List.map_cons, List.sum_cons]
    omega
  have word : packNat (before ++ (w, v) :: after) < 2 ^ 32 :=
    bound.trans_le (Nat.pow_le_pow_right (by decide) total)
  rw [pack, BitVec.toNat_ofNat, Nat.mod_eq_of_lt word, packNat_append,
    Nat.add_mul_div_left _ _ (Nat.two_pow_pos _), Nat.div_eq_of_lt (packNat_lt before), Nat.zero_add,
    packNat, Nat.add_mul_mod_self_left, Nat.mod_mod]

/-- A field that fills its width reads back from a word of its own. -/
theorem pack_fLarge {v : Nat} (h : v ≤ 65535) : pack [fLarge v] = BitVec.ofNat 32 v :=
  pack_single (by omega)

end Sys2Proof.Proofs
end

section
/-! PROOFS. The map commands and PROBE_PAGE (chapter 4): what an entry reads after one was written or made not
valid, and the commands that do so. -/

namespace Sys2Proof.Proofs
set_option Elab.async false

open Sys2Proof.Machine Sys2Proof.Safety Sys2Proof.Laws

/-! ### Map entries -/

/-- A port's unit with one of its maps replaced. -/
theorem setUnit_setMap_eq (s : State) (p : Port) (c : Context) (m : MapTable) :
    s.setUnit p ((s.unit p).setMap c m) =
      s.setUnit p { s.unit p with map0 := ((s.unit p).setMap c m).map0,
                                  map1 := ((s.unit p).setMap c m).map1 } := by
  cases c <;> rfl

/-- A port's map replaced: the other port's, and the other context's, are as they were. -/
theorem mapEntry_setUnit_setMap (s : State) (p q : Port) (c d : Context) (m : MapTable) (g : Nat) :
    (s.setUnit p ((s.unit p).setMap c m)).mapEntry q d g =
      if q = p ∧ d = c then Sparse.find? m g else s.mapEntry q d g := by
  rw [State.mapEntry, setUnit_unit]
  by_cases hq : q = p
  · by_cases hd : d = c
    · simp [hq, hd]
    · simp [hq, hd, mapOf_setMap_ne _ _ hd, State.mapEntry]
  · simp [hq, State.mapEntry]

theorem mapEntry_clearMap (s : State) (p q : Port) (c d : Context) (page g : Nat) :
    (s.clearMap p c page).mapEntry q d g =
      if q = p ∧ d = c ∧ g = page then none else s.mapEntry q d g := by
  rw [State.clearMap, mapEntry_setUnit_setMap]
  by_cases h : q = p ∧ d = c
  · obtain ⟨rfl, rfl⟩ := h
    by_cases hg : g = page
    · simp [hg, sparse_find_erase_same]
    · simp [hg, sparse_find_erase_ne _ hg, State.mapEntry]
  · rw [if_neg h, if_neg (fun k => h ⟨k.1, k.2.1⟩)]

theorem mapEntry_writeMap (s : State) (p q : Port) (c d : Context) (page g : Nat) (m : MapEntry) :
    (s.writeMap p c page m).mapEntry q d g =
      if q = p ∧ d = c ∧ g = page then some m else s.mapEntry q d g := by
  rw [State.writeMap, mapEntry_setUnit_setMap]
  by_cases h : q = p ∧ d = c
  · obtain ⟨rfl, rfl⟩ := h
    by_cases hg : g = page
    · simp [hg]
    · simp [hg, sparse_find_put_ne _ _ hg, State.mapEntry]
  · rw [if_neg h, if_neg (fun k => h ⟨k.1, k.2.1⟩)]

section Answered

variable (s : State) (p : Port) (code : Word) (r : Words4)

theorem clearMap_answered (q : Port) (c : Context) (page : Nat) :
    (answered s p code r).clearMap q c page = answered (s.clearMap q c page) p code r :=
  setUnit_answered (edit := fun u => u.setMap c (Sparse.erase (u.mapOf c) page))
    (fun _ => by cases c <;> rfl) s p q

theorem writeMap_answered (q : Port) (c : Context) (page : Nat) (m : MapEntry) :
    (answered s p code r).writeMap q c page m = answered (s.writeMap q c page m) p code r :=
  setUnit_answered (edit := fun u => u.setMap c (Sparse.put (u.mapOf c) page m))
    (fun _ => by cases c <;> rfl) s p q

end Answered

/-- An entry as result words report it (R74). -/
theorem pack_entryFields (m : Option MapEntry) :
    pack (entryFields m) =
      match m with
      | none => 0
      | some m => pack [fFlag true, fFrame m.frame, fFlag m.write] := by
  cases m with
  | none => decide
  | some m => rfl

/-- A map entry made not valid at a command (R81, R85). -/
theorem clearMapFor_answered (s : State) (p q : Port) (c : Context) (page : Nat) (code : Word)
    (r : Words4) :
    (answered s p code r).clearMapFor p q c page =
      answered (s.clearMap q c page) p code
        ⟨0, pack [fContext c, fPage page], pack (entryFields (s.mapEntry q c page)), 0⟩ := by
  rw [State.clearMapFor, clearMap_answered, reply_answered, answered_mapEntry]
  rfl

theorem setMapFor_refused {s : State} {q : Port} {c : Context} {page f : Nat} {write : Bool}
    {rc : ResultCode} (h : mapSetRefusal (s.entry f) q write = some rc) (p : Port) (code : Word)
    (r : Words4) :
    (answered s p code r).setMapFor p q c page f write =
      answered s p code ⟨BitVec.ofNat 32 rc.value, 0, 0, 0⟩ := by
  simp only [State.setMapFor, answered_entry, h, refuse_answered]

/-- A map entry written at a command (R79, R85). -/
theorem setMapFor_written {s : State} {q : Port} {c : Context} {page f : Nat} {write : Bool}
    (h : mapSetRefusal (s.entry f) q write = none) (p : Port) (code : Word) (r : Words4) :
    (answered s p code r).setMapFor p q c page f write =
      answered (s.writeMap q c page ⟨f, write⟩) p code
        ⟨0, pack [fContext c, fPage page, fFrame f, fFlag write],
          pack (entryFields (s.mapEntry q c page)), pack [fHeld (heldMode (s.entry f) q)]⟩ := by
  simp only [State.setMapFor, answered_entry, h, writeMap_answered, reply_answered, answered_mapEntry]
  rfl

theorem mapSetRefusal_poisoned {e : Entry} (q : Port) (write : Bool) (h : e.state = .poisoned) :
    mapSetRefusal e q write = some .unavailable := if_pos h

theorem mapSetRefusal_notHeld {e : Entry} {q : Port} (write : Bool) (h : e.state ≠ .poisoned)
    (hq : e.holders.get q = false) : mapSetRefusal e q write = some .notHeld := by
  rw [mapSetRefusal, if_neg h, if_pos hq]

theorem mapSetRefusal_state {e : Entry} {q : Port} {write : Bool} (h : e.state ≠ .poisoned)
    (hq : e.holders.get q = true) (hw : write = true) (hpriv : e.state ≠ .priv) :
    mapSetRefusal e q write = some .state := by
  rw [mapSetRefusal, if_neg h, if_neg (by simp [hq]), if_pos ⟨hw, hpriv⟩]

theorem mapSetRefusal_none {e : Entry} {q : Port} {write : Bool} (hq : e.holders.get q = true)
    (h : e.state = .priv ∨ (e.state = .shared ∧ write = false)) : mapSetRefusal e q write = none := by
  rcases h with h | ⟨h, hw⟩
  · simp [mapSetRefusal, h, hq]
  · simp [mapSetRefusal, h, hq, hw]

/-- The held mode of a frame held PRIVATE or SHARED, as a result word reports it (R198). -/
theorem pack_heldMode {e : Entry} {q : Port} (hq : e.holders.get q = true)
    (h : e.state = .priv ∨ e.state = .shared) :
    pack [fHeld (heldMode e q)] = if e.state = .priv then 1 else 2 := by
  rcases h with h | h
  · simp only [heldMode, hq, h]
    decide
  · simp only [heldMode, hq, h]
    decide

/-! ### SELECT_CONTEXT, MAP_CLEAR and MAP_CLEAR_ALL -/

/-- An answer upon a change of one port's maps, written as the change of that unit's two maps. -/
theorem answered_setMap_eq (s : State) (p q : Port) (c : Context) (m : MapTable) (code : Word)
    (r : Words4) :
    let t := answered (s.setUnit q ((s.unit q).setMap c m)) p code r
    t = answered (s.setUnit q { s.unit q with map0 := (t.unit q).map0, map1 := (t.unit q).map1 }) p
      code r := by
  intro t
  have map0 : (t.unit q).map0 = ((s.unit q).setMap c m).map0 := by
    rw [answered_unit_keeps (·.map0) (fun _ _ _ _ => rfl), setUnit_unit_same]
  have map1 : (t.unit q).map1 = ((s.unit q).setMap c m).map1 := by
    rw [answered_unit_keeps (·.map1) (fun _ _ _ _ => rfl), setUnit_unit_same]
  rw [map0, map1, ← setUnit_setMap_eq]

/-- Settles O42: the owners on the answered part, and what an entry reads after them. -/
theorem mapClearAndSelect : Obligations.MapClearAndSelect := by
  intro p c s hready h0
  refine ⟨?select, ?clearAll, ?clear⟩
  case select =>
    refine congrArg Host.Outcome.next ((issue_ready hready (contextArgs_some h0)).trans ?_)
    have edit := setUnit_answered (edit := fun u => { u with context := c }) (code := 0x20)
      (r := (s.unit p).results) (fun _ => rfl) s p p
    have context : ((answered s p 0x20 (s.unit p).results).unit p).context = (s.unit p).context :=
      answered_unit_keeps (·.context) (fun _ _ _ _ => rfl) s p p _ _
    rw [ownSelectContext, edit, reply_answered, context]
    rfl
  case clearAll =>
    have edit := setUnit_answered (edit := fun u => u.setMap c []) (code := 0x23)
      (r := (s.unit p).results) (fun _ => by cases c <;> rfl) s p p
    have taken : exec (.mapClearAll p) s = .next (answered (s.setUnit p ((s.unit p).setMap c [])) p
        0x23 ⟨0, pack [fContext c], pack [fLarge ((s.unit p).mapOf c).length], 0⟩) := by
      refine congrArg Host.Outcome.next ((issue_ready hready (contextArgs_some h0)).trans ?_)
      simp only [ownMapClearAll, edit, reply_answered, answered_mapOf]
      rfl
    refine ⟨_, taken, fun page => ?_, fun d page hd => ?_, answered_setMap_eq s p p c _ _ _⟩
    · simp [mapEntry_setUnit_setMap, Sparse.find?]
    · simp [mapEntry_setUnit_setMap, hd]
  case clear =>
    intro page h1 hpage
    have taken : exec (.mapClear p) s = .next (answered (s.clearMap p c page) p 0x22
        ⟨0, pack [fContext c, fPage page], pack (entryFields (s.mapEntry p c page)), 0⟩) :=
      congrArg Host.Outcome.next ((issue_ready hready (pageArgs_some h0 h1 hpage)).trans
        (clearMapFor_answered s p p c page _ _))
    rw [pack_entryFields] at taken
    refine ⟨_, taken, ?_, fun d g hother => ?_, answered_setMap_eq s p p c _ _ _⟩
    · simp [mapEntry_clearMap]
    · rw [answered_mapEntry, mapEntry_clearMap, if_neg]
      exact fun h => hother.elim (absurd h.2.1) (absurd h.2.2)

/-- Settles O43: the checks of R78 in order, then the entry written. -/
theorem mapSetWritesEntry : Obligations.MapSetWritesEntry := by
  intro p c page f write s hready h0 h1 hpage h2 hf h3
  have owner := issue_ready (code := 0x21) (off := false) (owner := ownMapSet p) hready
    (mapSetArgs_some h0 h1 hpage h2 hf h3)
  have refused : ∀ {rc}, mapSetRefusal (s.entry f) p write = some rc →
      exec (.mapSet p) s = .next (answered s p 0x21 ⟨BitVec.ofNat 32 rc.value, 0, 0, 0⟩) :=
    fun h => congrArg Host.Outcome.next (owner.trans (setMapFor_refused h p _ _))
  refine ⟨fun h => refused (mapSetRefusal_poisoned p write h),
    fun h hheld => refused (mapSetRefusal_notHeld write h hheld),
    fun h hheld hw => refused (mapSetRefusal_state (by simp [h]) hheld hw (by simp [h])), ?_⟩
  intro hheld h
  have taken : exec (.mapSet p) s = .next _ := congrArg Host.Outcome.next
    (owner.trans (setMapFor_written (c := c) (page := page) (mapSetRefusal_none hheld h) p _ _))
  rw [pack_entryFields, pack_heldMode hheld (h.imp_right And.left)] at taken
  refine ⟨_, taken, ?_, fun d g hother => ?_, answered_setMap_eq s p p c _ _ _⟩
  · simp [mapEntry_writeMap]
  · rw [answered_mapEntry, mapEntry_writeMap, if_neg]
    exact fun h => hother.elim (absurd h.2.1) (absurd h.2.2)

/-! ### PROBE_PAGE (R83, R84) -/

/-- What a read through an entry would meet, as the result word reports it. -/
theorem probeRead_code (s : State) (p : Port) (m : MapEntry) :
    accessOutcomeCode (s.probeAccess p (some m) .read) =
      if (s.entry m.frame).state = .poisoned then 6
      else if (s.entry m.frame).holders.get p = false then 4 else 0 := by
  simp only [State.probeAccess, reduceCtorEq, false_and, if_false]
  split
  · rfl
  · split <;> rfl

/-- What a write through an entry would meet, as the result word reports it. -/
theorem probeWrite_code (s : State) (p : Port) (m : MapEntry) :
    accessOutcomeCode (s.probeAccess p (some m) .write) =
      if m.write = false then 2 else if (s.entry m.frame).state = .poisoned then 6
      else if (s.entry m.frame).holders.get p = false then 4
      else if (s.entry m.frame).state ≠ .priv then 5 else 0 := by
  simp only [State.probeAccess, true_and]
  split
  · rfl
  · split
    · rfl
    · split
      · rfl
      · split <;> rfl

theorem accessOutcomeCode_eq_zero (c : Option FaultCause) : accessOutcomeCode c = 0 ↔ c = none := by
  cases c with
  | none => simp [accessOutcomeCode]
  | some c => cases c <;> simp [accessOutcomeCode, causeCode]

/-- The verdict, by the codes of the two outcomes (R198). -/
theorem verdictCode_eq (read write : Option FaultCause) :
    verdictCode read write =
      if accessOutcomeCode read ≠ 0 then 0 else if accessOutcomeCode write ≠ 0 then 1 else 2 := by
  simp only [verdictCode, ne_eq, accessOutcomeCode_eq_zero]

theorem heldCode_heldMode (e : Entry) (p : Port) :
    heldCode (heldMode e p) =
      if e.holders.get p = false then 0 else if e.state = .priv then 1
      else if e.state = .shared then 2 else 0 := by
  cases hheld : e.holders.get p with
  | false => simp [heldMode, hheld, heldCode]
  | true => cases hstate : e.state <;> simp [heldMode, hheld, hstate, heldCode, modeCode]

/-- Settles O44: the outcomes' codes, by the entry and the directory. -/
theorem probePageVerdict : Obligations.ProbePageVerdict := by
  intro p c page s hready h0 h1 hpage
  have owner := issue_ready (code := 0x24) (off := false) (owner := ownProbePage p) hready
    (pageArgs_some h0 h1 hpage)
  refine ⟨fun unmapped => ?_, fun m mapped => ?_⟩
  · refine congrArg Host.Outcome.next (owner.trans ?_)
    simp only [ownProbePage, reply_answered, answered_mapEntry, unmapped, pack_entryFields]
    rfl
  · intro e read write verdict held
    refine congrArg Host.Outcome.next (owner.trans ?_)
    let taken := answered s p 0x24 (s.unit p).results
    have hread : accessOutcomeCode (taken.probeAccess p (some m) .read) = read := probeRead_code s p m
    have hwrite : accessOutcomeCode (taken.probeAccess p (some m) .write) = write :=
      probeWrite_code s p m
    have hverdict : verdictCode (taken.probeAccess p (some m) .read)
        (taken.probeAccess p (some m) .write) = verdict := by
      rw [verdictCode_eq, hread, hwrite]
    have hheld : taken.probePageWord p (some m) = pack [fState e.state, (2, held)] :=
      congrArg (fun code => pack [fState e.state, (2, code)]) (heldCode_heldMode e p)
    simp only [ownProbePage, reply_answered, answered_mapEntry, mapped, pack_entryFields]
    rw [hread, hwrite, hverdict, hheld]
    rfl

/-- Settles O51: the refusals in order, then the named port's entry written or made not valid. -/
theorem mapForAnotherPort : Obligations.MapForAnotherPort := by
  intro p q c page s hready h0 h1 h2 hpage
  have clearOwner := issueAuthority_ready (code := 0x47) (owner := ownMapClearFor p) hready
    (mapClearForArgs_some h0 h1 h2 hpage)
  refine ⟨fun offline => ?_, fun online => ?_, fun f write h3 hf hlow => ?_⟩
  · refine congrArg Host.Outcome.next (clearOwner.trans ?_)
    simp only [ownMapClearFor, answered_online, offline, if_true, refuse_answered]
    rfl
  · have taken : exec (.mapClearFor p) s = .next (renewed (answered (s.clearMap q c page) p 0x47
        ⟨0, pack [fContext c, fPage page], pack (entryFields (s.mapEntry q c page)), 0⟩)) := by
      refine congrArg Host.Outcome.next (clearOwner.trans (congrArg renewed ?_))
      simp only [ownMapClearFor, answered_online, online, Bool.true_eq_false, if_false,
        clearMapFor_answered]
    rw [pack_entryFields] at taken
    refine ⟨_, taken, ?_, fun r d g hother => ?_, congrArg renewed (answered_setMap_eq s p q c _ _ _)⟩
    · exact (answered_mapEntry _ _ _ _ _ _ _).trans (by simp [mapEntry_clearMap])
    · refine (answered_mapEntry _ _ _ _ _ _ _).trans ?_
      rw [mapEntry_clearMap, if_neg]
      exact fun h => hother.elim (absurd h.1) (·.elim (absurd h.2.1) (absurd h.2.2))
  · have setOwner := issueAuthority_ready (code := 0x46) (owner := ownMapSetFor p) hready
      (mapSetForArgs_some h0 h1 h2 hpage h3 hf hlow)
    have checked : (s.unit q).online = true → exec (.mapSetFor p) s = .next (renewed
        ((answered s p 0x46 (s.unit p).results).setMapFor p q c page f write)) := by
      intro online
      refine congrArg Host.Outcome.next (setOwner.trans (congrArg renewed ?_))
      simp only [ownMapSetFor, answered_online, online, Bool.true_eq_false, if_false]
    have refused : ∀ {rc}, (s.unit q).online = true → mapSetRefusal (s.entry f) q write = some rc →
        exec (.mapSetFor p) s =
          .next (renewed (answered s p 0x46 ⟨BitVec.ofNat 32 rc.value, 0, 0, 0⟩)) :=
      fun online h => by rw [checked online, setMapFor_refused h]
    refine ⟨fun offline => ?_, fun online h => refused online (mapSetRefusal_poisoned q write h),
      fun online h hheld => refused online (mapSetRefusal_notHeld write h hheld),
      fun online h hpriv hheld hw => refused online (mapSetRefusal_state h hheld hw hpriv), ?_⟩
    · refine congrArg Host.Outcome.next (setOwner.trans ?_)
      simp only [ownMapSetFor, answered_online, offline, if_true, refuse_answered]
      rfl
    · intro online hheld h
      have taken := checked online
      rw [setMapFor_written (mapSetRefusal_none hheld h), pack_entryFields,
        pack_heldMode hheld (h.imp_right And.left)] at taken
      refine ⟨_, taken, ?_, fun r d g hother => ?_,
        congrArg renewed (answered_setMap_eq s p q c _ _ _)⟩
      · exact (answered_mapEntry _ _ _ _ _ _ _).trans (by simp [mapEntry_writeMap])
      · refine (answered_mapEntry _ _ _ _ _ _ _).trans ?_
        rw [mapEntry_writeMap, if_neg]
        exact fun h => hother.elim (absurd h.1) (·.elim (absurd h.2.1) (absurd h.2.2))

end Sys2Proof.Proofs
end

section
/-! PROOFS. The commands that read or write one entry, the token and the parameters (chapters 1, 2, 7, 8). -/

namespace Sys2Proof.Proofs
set_option Elab.async false

open Sys2Proof.Machine Sys2Proof.Safety Sys2Proof.Laws

/-- Without waiters advancement ends at its first step (R34). -/
theorem advance_of_queue_nil {s : State} {f : Nat} (forced : Bool) (h : (s.entry f).queue = []) :
    s.advance forced f = s := by
  rw [State.advance, h]
  rfl

/-! ### ATTACH (R166) -/

/-- Settles O31: the two arms of ATTACH's owner. -/
theorem attachBringsPortOnline : Obligations.AttachBringsPortOnline := by
  intro p s hserved
  have owner := issue_owner (code := 0x01) (off := true) (owner := ownAttach p) (a := ())
    hserved (.inr rfl) rfl
  refine ⟨fun offline => ?_, fun online => ?_⟩
  · have edit := setUnit_answered (edit := fun u => { u with online := true }) (code := 0x01)
      (r := (s.unit p).results) (fun _ => rfl) s p p
    refine congrArg Host.Outcome.next (owner.trans ?_)
    rw [ownAttach, answered_online, offline, if_neg (by decide), edit, reply_answered,
      ← pack_single (w := 2) (portNumber_lt p)]
    rfl
  · refine congrArg Host.Outcome.next (owner.trans ?_)
    rw [ownAttach, answered_online, online, if_pos rfl, refuse_answered]
    rfl

/-! ### PROBE_FRAME (R17, R18) -/

theorem queueWord_cons (h : WaitRec) (t : List WaitRec) :
    queueWord (h :: t) = pack [fSmall (t.length + 1), fFlag true, fPort h.port, fMode h.mode] := rfl

/-- The place of the frame that stands behind others in the deferred list (R57). -/
theorem deferredPlace_append {f : Nat} {before : List Deferred} (d : Deferred) (after : List Deferred)
    (hd : d.frame = f) (hbefore : ∀ x ∈ before, x.frame ≠ f) :
    deferredPlace f (before ++ d :: after) = before.length + 1 := by
  induction before with
  | nil => simp [deferredPlace, hd]
  | cons x t ih =>
    rw [List.cons_append, deferredPlace, if_neg (hbefore x (by simp)),
      ih (fun y hy => hbefore y (by simp [hy]))]
    rfl

theorem remainingTime_of_lt {now deadline : Nat} (h : now < deadline) :
    remainingTime now deadline = (deadline - now + 9) / 10 := by
  rw [remainingTime]
  omega

/-- Settles O33: the three result words, by the queue and the recall field. -/
theorem probeFrameReadsEntry : Obligations.ProbeFrameReadsEntry := by
  intro p f s hserved h0 hf
  refine ⟨queueWord (s.entry f).queue, s.recallWord f, ?_, fun empty => ?_, fun h t queue => ?_,
    fun field => ?_, fun before d after field list hd hbefore => ?_, fun i r field slot hlt => ?_⟩
  · refine congrArg Host.Outcome.next ((issue_owner hserved (.inr rfl) (frameArgs_some h0 hf)).trans ?_)
    rw [ownProbeFrame, reply_answered]
    rfl
  · rw [empty]
    decide
  · rw [queue, queueWord_cons]
  · simp only [State.recallWord, field]
    decide
  · simp only [State.recallWord, field]
    rw [list, deferredPlace_append d after hd hbefore]
  · simp only [State.recallWord, field, slot, remainingTime_of_lt hlt]

/-! ### CLAIM refused (R23, R33) -/

section Claim

variable {s : State} {p : Port} {f : Nat} {m : Mode} {tag : BitVec 8}

/-- A claim with arguments in their range is its owner's. -/
theorem exec_claim (hready : Ready s p) (h0 : s.arg p 0 = f) (hf : f < s.frames)
    (h1 : s.arg p 1 = modeCode m) (h2 : s.arg p 2 = tag.toNat) :
    exec (.claim p) s = .next (ownClaim p (f, m, tag) (answered s p 0x10 (s.unit p).results)) :=
  congrArg Host.Outcome.next (issue_ready hready (claimArgs_some h0 hf h1 h2))

theorem ownClaim_unavailable (t : State) (h : (t.entry f).state = .poisoned) :
    ownClaim p (f, m, tag) t = t.refuse p .unavailable := if_pos h

theorem ownClaim_duplicate (t : State) (h : (t.entry f).state ≠ .poisoned)
    (hwaits : waitsIn (t.entry f).queue p = true) :
    ownClaim p (f, m, tag) t = t.refuse p .duplicate := by
  simp only [ownClaim, if_neg h, hwaits, if_true]

/-- Past the first two checks the case of the claim decides (R26 to R32). -/
theorem ownClaim_case (t : State) (h : (t.entry f).state ≠ .poisoned)
    (hwaits : waitsIn (t.entry f).queue p = false) :
    ownClaim p (f, m, tag) t =
      match claimCase (t.entry f) p m with
      | .take o => t.takeClaim p f m tag o
      | .refusePinned => t.refuse p .pinned
      | .wait =>
        if t.poolFree = 0 then t.refuse p .busy
        else if 8 ≤ (t.unit p).waiting then t.refuse p .limit
        else t.queueClaim p f m tag :=
  (if_neg h).trans (if_neg (by simp [hwaits]))

end Claim

/-- A claim that must wait: a PRIVATE frame of another port, a SHARED one wanted PRIVATE by a port that is not
its sole holder, one behind waiters, or a frame not in use (R27, R29, R31, R32). -/
def MustWait (e : Entry) (p : Port) (m : Mode) : Prop :=
  (e.state = .priv ∧ e.holders.get p = false ∧ e.pinned = false) ∨
  (e.state = .shared ∧ m = .priv ∧ ¬ (e.holders = onePort p ∧ e.queue = []) ∧ e.pinned = false) ∨
  (e.state = .shared ∧ m = .shared ∧ e.holders.get p = false ∧ e.queue ≠ []) ∨
  e.state = .uninitialized ∨ e.state = .scrubbing ∨ e.state = .quarantined

theorem claimCase_wait {e : Entry} {p : Port} {m : Mode} (h : MustWait e p m) :
    claimCase e p m = .wait ∧ e.state ≠ .poisoned := by
  rcases h with ⟨hs, hheld, hpin⟩ | ⟨hs, rfl, hsole, hpin⟩ | ⟨hs, rfl, hheld, hqueue⟩ | hs | hs | hs
  · simp [claimCase, hs, hheld, hpin]
  · simp [claimCase, hs, hsole, hpin]
  · simp [claimCase, hs, hheld, hqueue]
  · simp [claimCase, hs]
  · simp [claimCase, hs]
  · simp [claimCase, hs]

theorem claimCase_pinned {e : Entry} {p : Port} {m : Mode} (hpin : e.pinned = true)
    (h : (e.state = .priv ∧ e.holders.get p = false) ∨
      (e.state = .shared ∧ m = .priv ∧ ¬ (e.holders = onePort p ∧ e.queue = []))) :
    claimCase e p m = .refusePinned ∧ e.state ≠ .poisoned := by
  rcases h with ⟨hs, hheld⟩ | ⟨hs, rfl, hsole⟩
  · simp [claimCase, hs, hheld, hpin]
  · simp [claimCase, hs, hsole, hpin]

/-- Settles O37: the checks of R23 in order. -/
theorem claimRefused : Obligations.ClaimRefused := by
  intro p f m tag s hready h0 hf h1 h2 e sole waits
  have owner := exec_claim hready h0 hf h1 h2
  let t := answered s p 0x10 (s.unit p).results
  have refused : ∀ rc, ownClaim p (f, m, tag) t = t.refuse p rc →
      exec (.claim p) s = .next (answered s p 0x10 ⟨BitVec.ofNat 32 rc.value, 0, 0, 0⟩) :=
    fun _ h => owner.trans (congrArg _ (h.trans (refuse_answered s p _ _ _)))
  refine ⟨fun h => refused _ (ownClaim_unavailable t h),
    fun h hwaits => refused _ (ownClaim_duplicate t h hwaits), fun hwaits hpin h => ?_,
    fun hwaits hwait hpool => ?_, fun hwaits hwait hpool hlimit => ?_⟩
  · obtain ⟨hcase, hstate⟩ := claimCase_pinned hpin h
    refine refused .pinned ((ownClaim_case t hstate hwaits).trans ?_)
    rw [answered_entry, hcase]
  · obtain ⟨hcase, hstate⟩ := claimCase_wait hwait
    refine refused .busy ((ownClaim_case t hstate hwaits).trans ?_)
    rw [answered_entry, hcase]
    exact if_pos hpool
  · obtain ⟨hcase, hstate⟩ := claimCase_wait hwait
    refine refused .limit ((ownClaim_case t hstate hwaits).trans ?_)
    rw [answered_entry, hcase]
    exact (if_neg hpool).trans (if_pos (by rwa [answered_waiting]))

/-! ### The token and the lease (R140 to R145) -/

/-- The first number that has a property, among the numbers searched. -/
theorem firstFrom_eq_some {has : Nat → Bool} {n k f : Nat} (hk : k ≤ f) (hf : f < k + n)
    (h : has f = true) (hbefore : ∀ g, k ≤ g → g < f → has g = false) : firstFrom has n k = some f := by
  induction n generalizing k with
  | zero => omega
  | succ n ih =>
    rw [firstFrom]
    by_cases hkf : k = f
    · rw [if_pos (hkf ▸ h), hkf]
    · rw [if_neg (by simp [hbefore k (Nat.le_refl k) (by omega)])]
      exact ih (by omega) (by omega) (fun g hg hgf => hbefore g (by omega) hgf)

theorem firstFrom_eq_none {has : Nat → Bool} {n k : Nat}
    (h : ∀ g, k ≤ g → g < k + n → has g = false) : firstFrom has n k = none := by
  induction n generalizing k with
  | zero => rfl
  | succ n ih =>
    rw [firstFrom, if_neg (by simp [h k (Nat.le_refl k) (by omega)])]
    exact ih (fun g hg hgn => h g (by omega) (by omega))

/-- A found frame is one of those searched, and has the property. -/
theorem firstFrom_some {has : Nat → Bool} {n k f : Nat} (h : firstFrom has n k = some f) :
    k ≤ f ∧ f < k + n ∧ has f = true := by
  induction n generalizing k with
  | zero => cases h
  | succ n ih =>
    rw [firstFrom] at h
    split at h
    next hk =>
      cases h
      exact ⟨Nat.le_refl f, by omega, hk⟩
    next =>
      obtain ⟨h1, h2, h3⟩ := ih h
      exact ⟨by omega, by omega, h3⟩

theorem lowestInState_eq_some {s : State} {st : FrameState} {f : Nat} (hf : f < s.frames)
    (h : (s.entry f).state = st) (hbefore : ∀ g < f, (s.entry g).state ≠ st) :
    s.lowestInState st = some f :=
  firstFrom_eq_some (Nat.zero_le f) (by omega) (by simp [h])
    (fun g _ hg => by simp [hbefore g hg])

theorem lowestInState_eq_none {s : State} {st : FrameState}
    (h : ∀ g < s.frames, (s.entry g).state ≠ st) : s.lowestInState st = none :=
  firstFrom_eq_none (fun g _ hg => by simp [h g (by omega)])

theorem lowestInState_some {s : State} {st : FrameState} {f : Nat} (h : s.lowestInState st = some f) :
    f < s.frames ∧ (s.entry f).state = st := by
  obtain ⟨_, hf, hst⟩ := firstFrom_some h
  exact ⟨by omega, by simpa using hst⟩

/-- The found frame with its present indication, as the summary's two fields (R142). -/
theorem foundFields_lowest {s : State} {st : FrameState} {f : Nat} {present : Bool}
    (h : if present then f < s.frames ∧ (s.entry f).state = st ∧ ∀ g < f, (s.entry g).state ≠ st
      else f = 0 ∧ ∀ g < s.frames, (s.entry g).state ≠ st) :
    foundFields (s.lowestInState st) = [fFrame f, fFlag present] := by
  cases present with
  | false =>
    obtain ⟨rfl, hnone⟩ := h
    rw [lowestInState_eq_none hnone]
    rfl
  | true =>
    obtain ⟨hf, hst, hbefore⟩ := h
    rw [lowestInState_eq_some hf hst hbefore]
    rfl

/-- Settles O45: the owners on the answered part, the summary's frames by the search that finds them. -/
theorem tokenCommandsAndLease : Obligations.TokenCommandsAndLease := by
  refine ⟨?acquire, ?busy, ?holder, ?expiry, ?early⟩
  case acquire =>
    intro p s qf pf qp pp hready hq hp htoken
    have found : foundFields (s.lowestInState .quarantined) ++ foundFields (s.lowestInState .poisoned) =
        [fFrame qf, fFlag qp, fFrame pf, fFlag pp] := by
      rw [foundFields_lowest hq, foundFields_lowest hp]
      rfl
    have summary : ∀ outcome, (State.renewLease { answered s p 0x30 (s.unit p).results with
          token := some p }).acquired p outcome =
        renewed (answered { s with token := some p } p 0x30
          ⟨0, pack [(4, outcome), fLarge s.leaseParam],
            pack [fLarge s.quarantinedCount, fLarge s.poisonedCount],
            pack [fFlag s.sweepComplete, fFrame qf, fFlag qp, fFrame pf, fFlag pp]⟩) := by
      intro outcome
      rw [← found]
      exact reply_answered (renewed { s with token := some p }) p 0x30 _ _ _ _ _
    refine congrArg Host.Outcome.next ((issue_ready hready rfl).trans ?_)
    rcases htoken with free | own
    · have taken : (answered s p 0x30 (s.unit p).results).token = none := free
      simp only [ownAcquireAuthority, taken, free, if_true]
      exact summary 1
    · have taken : (answered s p 0x30 (s.unit p).results).token = some p := own
      have same : { answered s p 0x30 (s.unit p).results with token := some p } =
          answered s p 0x30 (s.unit p).results := by rw [← taken]
      simp only [ownAcquireAuthority, taken, own, if_true, reduceCtorEq, if_false]
      have renewal := summary 2
      rwa [same] at renewal
  case busy =>
    intro p q s hready htoken hq
    refine congrArg Host.Outcome.next ((issue_ready hready rfl).trans ?_)
    have taken : (answered s p 0x30 (s.unit p).results).token = some q := htoken
    simp only [ownAcquireAuthority, taken, if_neg hq, refuse_answered]
    rfl
  case holder =>
    intro p s hready
    refine ⟨congrArg Host.Outcome.next ((issueAuthority_ready hready rfl).trans
      (congrArg renewed (reply_answered s p _ _ _ _ _ _))), ?_⟩
    refine congrArg Host.Outcome.next ((issue_ready hready.1 rfl).trans ?_)
    exact (if_pos hready.2).trans (reply_answered { s with token := none } p 0x32 _ _ _ _ _)
  case expiry =>
    intro p s htoken hdue
    simp only [exec, execAuthorityLeaseExpiry, htoken, if_pos hdue]
    rfl
  case early =>
    rintro s (free | early)
    · simp only [exec, execAuthorityLeaseExpiry, free]
    · cases htoken : s.token with
      | none => simp only [exec, execAuthorityLeaseExpiry, htoken]
      | some p => simp only [exec, execAuthorityLeaseExpiry, htoken, if_neg (Nat.not_le.2 early)]

/-! ### ASSIGN, PIN, UNPIN and SET_PARAMETER -/

/-- Settles O46: the refusals, then the grant; a FREE frame has no waiter to advance. -/
theorem assignGivesFrame : Obligations.AssignGivesFrame := by
  intro p q f m s hready h0 hf h1 h2
  have owner := issueAuthority_ready (code := 0x40) (owner := ownAssign p) hready
    (assignArgs_some h0 hf h1 h2)
  refine ⟨fun offline => ?_, fun online h => ?_, fun online h empty => ?_⟩
  · refine congrArg Host.Outcome.next (owner.trans (congrArg renewed ?_))
    simp only [ownAssign, answered_online, offline, if_true, refuse_answered]
    rfl
  · refine congrArg Host.Outcome.next (owner.trans (congrArg renewed ?_))
    simp only [ownAssign, answered_online, online, Bool.true_eq_false, if_false, answered_entry,
      if_pos h, refuse_answered]
    rfl
  · refine congrArg Host.Outcome.next (owner.trans (congrArg renewed ?_))
    simp only [ownAssign, answered_online, online, Bool.true_eq_false, if_false, answered_entry,
      if_neg (not_not_intro h), putEntry_answered, post_answered, advance_answered]
    rw [advance_of_queue_nil false (by simpa using empty), reply_answered]
    rfl

/-- Settles O48: the owners of PIN and UNPIN on the answered part. -/
theorem pinAndUnpin : Obligations.PinAndUnpin := by
  intro p f s hready h0 hf
  have pinOwner := issueAuthority_ready (code := 0x42) (owner := ownPin p) hready
    (frameArgs_some h0 hf)
  refine ⟨fun h => ?_, fun h hqueue => ?_, fun h empty => ?_, ?_⟩
  · refine congrArg Host.Outcome.next (pinOwner.trans (congrArg renewed ?_))
    simp only [ownPin, answered_entry, h, if_true, refuse_answered]
    rfl
  · refine congrArg Host.Outcome.next (pinOwner.trans (congrArg renewed ?_))
    simp only [ownPin, answered_entry, h, Bool.true_eq_false, if_false, if_pos hqueue, refuse_answered]
    rfl
  · refine congrArg Host.Outcome.next (pinOwner.trans (congrArg renewed ?_))
    simp only [ownPin, answered_entry, h, Bool.true_eq_false, if_false, if_neg (not_not_intro empty),
      putEntry_answered, reply_answered]
    rfl
  · refine congrArg Host.Outcome.next ((issueAuthority_ready hready (frameArgs_some h0 hf)).trans
      (congrArg renewed ?_))
    simp only [ownUnpin, answered_entry, putEntry_answered, reply_answered]
    rfl

/-- Settles O52: the owner's own checks, then one parameter written. -/
theorem setParameterWritesTable : Obligations.SetParameterWritesTable := by
  intro p s hready
  have owner := issueAuthority_ready (code := 0x48) (owner := ownSetParameter p) hready
    (args := some (s.arg p 0, s.arg p 1)) rfl
  refine ⟨fun h => ?_, fun h0 hpos hle => ?_, fun h0 hpos hle => ?_⟩
  · refine congrArg Host.Outcome.next (owner.trans (congrArg renewed ?_))
    simp only [ownSetParameter, if_pos h, refuse_answered]
    rfl
  · refine congrArg Host.Outcome.next (owner.trans (congrArg renewed ?_))
    rw [ownSetParameter, if_neg (by omega), if_pos h0, ← pack_fLarge hle, h0]
    exact reply_answered { s with recallTimeout := s.arg p 1 } p 0x48 _ _ _ _ _
  · refine congrArg Host.Outcome.next (owner.trans (congrArg renewed ?_))
    rw [ownSetParameter, if_neg (by omega), if_neg (by omega), ← pack_fLarge hle, h0]
    exact reply_answered { s with leaseParam := s.arg p 1 } p 0x48 _ _ _ _ _

end Sys2Proof.Proofs
end

section
/-! PROOFS. What a step can do, said once: every command but the two resets and the release of RSTn is a run of
small edits, each of one entry, one port unit, the array, the parameters, or of what no count depends on. An
invariant that the edits keep is kept by every step. -/

namespace Sys2Proof.Proofs
set_option Elab.async false

open Sys2Proof.Machine Sys2Proof.Safety Sys2Proof.Laws

/-! ### Edits -/

/-- What an edit of a port unit keeps: no record joins the queue and OVERRUN is not set, a port that leaves
ONLINE has no record, the holding count stays, the maps stay in order and name frames they named before or
frames of the part. -/
structure UnitEdit (frames : Nat) (u v : PortUnit) : Prop where
  events : v.events <:+ u.events
  overrun : v.overrun = true → u.overrun = true
  online : v.online = true ∨ v.online = u.online ∨ (v.events = [] ∧ v.overrun = false)
  holding : v.holding = u.holding
  rising : ∀ c, Sparse.rising (u.mapOf c) → Sparse.rising (v.mapOf c)
  names : ∀ c, ∀ m ∈ v.mapOf c, m.2.frame < frames ∨ ∃ m' ∈ u.mapOf c, m'.2.frame = m.2.frame

/-- A state changes in nothing that a count, a sparse list, a port unit or a parameter is part of. -/
def RestEdit (s t : State) : Prop :=
  t = { s with poolFree := t.poolFree, arrival := t.arrival, recalls := t.recalls,
               deferred := t.deferred, leaseDeadline := t.leaseDeadline, scrubQueue := t.scrubQueue,
               burst := t.burst, scrubRequest := t.scrubRequest, memPort := t.memPort,
               arbiter := t.arbiter, refreshDue := t.refreshDue, refreshAt := t.refreshAt,
               refreshEnd := t.refreshEnd, draws := t.draws }

/-- What a run of edits may touch besides the frames of the part and the port units: the frames it may list,
whether it may write the array and the token, and the ports it may take OFFLINE. -/
structure Scope where
  listed : Nat → Prop
  array : Prop
  token : Prop
  offline : Port → Prop

/-- The scope of any run. -/
def Scope.any : Scope := ⟨fun _ => True, True, True, fun _ => True⟩

/-- One edit. An entry is replaced only for a frame of the part, for a frame that the scope lists, or so that
the reset entry stays; no entry comes to be UNINITIALIZED. -/
inductive Edit (B : Scope) : State → State → Prop where
  | entry (s : State) (f : Nat) (e : Entry)
      (listed : f < s.frames ∨ B.listed f ∨ (s.entry f = Entry.reset → e = Entry.reset))
      (used : e.state = .uninitialized → (s.entry f).state = .uninitialized) :
      Edit B s (s.putEntry f e)
  | post (s : State) (p : Port) (r : EventRecord) : Edit B s (s.post p r)
  | unit (s : State) (p : Port) (u : PortUnit) (h : UnitEdit s.frames (s.unit p) u)
      (stays : (s.unit p).online = true → u.online = true ∨ B.offline p) : Edit B s (s.setUnit p u)
  | memory (s : State) (m : Memory) (h : Memory.wf s.memory → Memory.wf m) (may : B.array) :
      Edit B s { s with memory := m }
  | params (s : State) (timeout lease : Nat)
      (h : ParametersInRange s → ParametersInRange { s with recallTimeout := timeout, leaseParam := lease }) :
      Edit B s { s with recallTimeout := timeout, leaseParam := lease }
  | token (s : State) (x : Option Port) (may : B.token) : Edit B s { s with token := x }
  | rest (s t : State) (h : RestEdit s t) : Edit B s t

/-- A run of edits. -/
abbrev Edits (B : Scope) : State → State → Prop := Relation.ReflTransGen (Edit B)

/-- What each edit keeps, a run of edits keeps. -/
theorem Edits.keeps {B : Scope} {I : State → Prop} (h : ∀ s t, Edit B s t → I s → I t)
    {s t : State} (run : Edits B s t) (hs : I s) : I t := by
  induction run with
  | refl => exact hs
  | tail _ edit ih => exact h _ _ edit ih

theorem Edits.one {B : Scope} {s t : State} (h : Edit B s t) : Edits B s t :=
  Relation.ReflTransGen.single h

/-- A unit whose records, OVERRUN, lifecycle state, holding count and maps stay as they are. -/
theorem UnitEdit.of_same {n : Nat} {u v : PortUnit} (events : v.events = u.events)
    (overrun : v.overrun = u.overrun) (online : v.online = u.online) (holding : v.holding = u.holding)
    (map0 : v.map0 = u.map0) (map1 : v.map1 = u.map1) : UnitEdit n u v where
  events := events ▸ List.suffix_refl _
  overrun := fun h => overrun ▸ h
  online := .inr (.inl online)
  holding := holding
  rising := fun c h => by cases c <;> simpa only [PortUnit.mapOf, map0, map1] using h
  names := fun c m hm =>
    .inr ⟨m, by cases c <;> simpa only [PortUnit.mapOf, map0, map1] using hm, rfl⟩

/-- A unit with one of its maps replaced. -/
theorem UnitEdit.setMap {n : Nat} (u : PortUnit) (c : Context) {m : MapTable}
    (rising : Sparse.rising (u.mapOf c) → Sparse.rising m)
    (names : ∀ x ∈ m, x.2.frame < n ∨ ∃ y ∈ u.mapOf c, y.2.frame = x.2.frame) :
    UnitEdit n u (u.setMap c m) where
  events := by cases c <;> exact List.suffix_refl _
  overrun := by cases c <;> exact id
  online := .inr (.inl (by cases c <;> rfl))
  holding := by cases c <;> rfl
  rising := fun d h => by
    by_cases hd : d = c
    · subst hd
      rw [mapOf_setMap_same]
      exact rising h
    · rwa [mapOf_setMap_ne _ _ hd]
  names := fun d x hx => by
    by_cases hd : d = c
    · subst hd
      rw [mapOf_setMap_same] at hx
      exact names x hx
    · rw [mapOf_setMap_ne _ _ hd] at hx
      exact .inr ⟨x, hx, rfl⟩

@[simp] theorem setMap_online (u : PortUnit) (c : Context) (m : MapTable) :
    (u.setMap c m).online = u.online := by
  cases c <;> rfl

/-! ### The operations of the directory -/

theorem ne_reset_of_queue {e : Entry} {h : WaitRec} {t : List WaitRec} (hq : e.queue = h :: t) :
    e ≠ Entry.reset := by
  rintro rfl
  cases hq

theorem ne_reset_of_state {e : Entry} (h : e.state ≠ .uninitialized) : e ≠ Entry.reset := by
  rintro rfl
  exact h rfl

theorem ne_reset_of_inUse {e : Entry} (h : inUse e.state = true) : e ≠ Entry.reset := by
  rintro rfl
  cases h

section Directory

variable {B : Scope}

theorem edits_rest {s t : State} (h : RestEdit s t) : Edits B s t := Edits.one (Edit.rest s t h)

theorem edits_post (s : State) (p : Port) (r : EventRecord) : Edits B s (s.post p r) :=
  Edits.one (Edit.post s p r)

theorem edits_postList (l : List Port) (s : State) (r : EventRecord) : Edits B s (s.postList l r) := by
  induction l generalizing s with
  | nil => exact .refl
  | cons p rest ih => exact (edits_post s p r).trans (ih (s.post p r))

theorem edits_postSet (s : State) (ps : PortSet) (r : EventRecord) : Edits B s (s.postSet ps r) :=
  edits_postList _ s r

/-- An entry that is not the reset entry is replaced. -/
theorem edits_putEntry {s : State} {f : Nat} {e : Entry} (h : s.entry f ≠ Entry.reset)
    (used : e.state = .uninitialized → (s.entry f).state = .uninitialized) :
    Edits B s (s.putEntry f e) :=
  Edits.one (Edit.entry s f e (.inr (.inr fun reset => absurd reset h)) used)

theorem edits_clearRecall (s : State) (f : Nat) :
    Edits B s (s.putEntry f { s.entry f with recallField := .none }) :=
  Edits.one (Edit.entry s f _ (.inr (.inr fun reset => by rw [reset]; rfl)) id)

theorem edits_setUnit_same {s : State} {p : Port} {u : PortUnit} (events : u.events = (s.unit p).events)
    (overrun : u.overrun = (s.unit p).overrun) (online : u.online = (s.unit p).online)
    (holding : u.holding = (s.unit p).holding) (map0 : u.map0 = (s.unit p).map0)
    (map1 : u.map1 = (s.unit p).map1) : Edits B s (s.setUnit p u) :=
  Edits.one (Edit.unit s p u (UnitEdit.of_same events overrun online holding map0 map1)
    fun h => .inl (online.trans h))

theorem edits_returnRecord (s : State) (p : Port) : Edits B s (s.returnRecord p) :=
  (edits_setUnit_same (u := { s.unit p with waiting := (s.unit p).waiting - 1 }) rfl rfl rfl rfl rfl
    rfl).trans (edits_rest rfl)

theorem edits_takeRecord (s : State) (p : Port) : Edits B s (s.takeRecord p) :=
  (edits_setUnit_same (u := { s.unit p with waiting := (s.unit p).waiting + 1 }) rfl rfl rfl rfl rfl
    rfl).trans (edits_rest rfl)

theorem edits_startRecall (s : State) (f : Nat) (i : Fin 8) : Edits B s (s.startRecall f i) := by
  unfold State.startRecall
  dsimp only
  split
  · exact .refl
  next h _ hq =>
    let s1 : State := { s with recalls := s.recalls.set i (some
        { frame := f, requester := h.port, wanted := h.mode, toRelease := toReleaseOf (s.entry f),
          deadline := s.now + s.recallTimeout * 10 }) }
    have record : Edits B s s1 := edits_rest rfl
    have named : Edits B s1 (s1.putEntry f { s.entry f with recallField := .active i }) :=
      edits_putEntry (ne_reset_of_queue hq) id
    exact (record.trans named).trans (edits_postSet _ _ _)

theorem edits_deferRecall (s : State) (f : Nat) : Edits B s (s.deferRecall f) := by
  unfold State.deferRecall
  dsimp only
  split
  · exact .refl
  next h _ hq =>
    let s1 : State := { s with deferred := placeDeferred ⟨f, h.seq⟩ s.deferred }
    have deferred : Edits B s s1 := edits_rest rfl
    have named : Edits B s1 (s1.putEntry f { s.entry f with recallField := .deferred }) :=
      edits_putEntry (ne_reset_of_queue hq) id
    exact deferred.trans named

theorem edits_ensureRecall (s : State) (f : Nat) : Edits B s (s.ensureRecall f) := by
  unfold State.ensureRecall
  split
  · split
    · exact edits_startRecall s f _
    · exact edits_deferRecall s f
  · exact .refl
  · exact .refl

theorem edits_feedDeferred (i : Fin 8) (l : List Deferred) (s : State) :
    Edits B s (State.feedDeferred i l s) := by
  induction l generalizing s with
  | nil => exact edits_rest rfl
  | cons d rest ih =>
    rw [State.feedDeferred]
    split
    · have deferred : Edits B s { s with deferred := rest } := edits_rest rfl
      exact deferred.trans (edits_startRecall _ _ _)
    · exact (edits_clearRecall s d.frame).trans (ih _)

theorem edits_dropRecall (s : State) (f : Nat) : Edits B s (s.dropRecall f) := by
  unfold State.dropRecall
  dsimp only
  split
  · exact .refl
  · have list : Edits B s { s with deferred := s.deferred.filter (fun d => d.frame != f) } :=
      edits_rest rfl
    exact list.trans (edits_clearRecall _ f)
  next i _ =>
    have record : Edits B s { s with recalls := s.recalls.set i none } := edits_rest rfl
    exact (record.trans (edits_clearRecall _ f)).trans (edits_feedDeferred _ _ _)

theorem edits_leaveToRelease (s : State) (f : Nat) (p : Port) : Edits B s (s.leaveToRelease f p).1 := by
  unfold State.leaveToRelease
  split
  · exact .refl
  · split
    · dsimp only
      split
      · exact edits_dropRecall s f
      · exact edits_rest rfl
    · exact .refl

theorem edits_grantHead {s : State} {f : Nat} (h : WaitRec) (forced upgraded : Bool)
    (hs : (s.entry f).state ≠ .uninitialized) : Edits B s (s.grantHead f h forced upgraded) := by
  let s1 := (s.putEntry f { s.entry f with queue := (s.entry f).queue.tail }).returnRecord h.port
  let s2 := s1.dropRecall f
  have dequeued : Edits B s s1 :=
    (edits_putEntry (e := { s.entry f with queue := (s.entry f).queue.tail }) (ne_reset_of_state hs)
      id).trans (edits_returnRecord _ _)
  have state : (s2.entry f).state ≠ .uninitialized := by
    rw [dropRecall_entry s1 f f]
    exact (entry_putEntry_same s f _).symm ▸ hs
  have granted : Edits B s2 (s2.putEntry f { s2.entry f with
      holders := (s2.entry f).holders.set h.port true, state := heldState h.mode }) :=
    edits_putEntry (ne_reset_of_state state) (by cases h.mode <;> nofun)
  exact ((dequeued.trans (edits_dropRecall s1 f)).trans granted).trans (edits_post _ _ _)

theorem edits_advanceFuel (forced : Bool) (f n : Nat) (s : State) :
    Edits B s (State.advanceFuel forced f n s) := by
  induction n generalizing s with
  | zero => exact .refl
  | succ n ih =>
    have grant : ∀ h u, (s.entry f).state ≠ .uninitialized →
        Edits B s (State.advanceFuel forced f n (s.grantHead f h forced u)) :=
      fun h u hs => (edits_grantHead h forced u hs).trans (ih _)
    rw [State.advanceFuel]
    split
    · exact .refl
    · split
      next hs _ => exact grant _ _ (by simp [hs])
      next hs _ => exact grant _ _ (by simp [hs])
      next hs _ => exact grant _ _ (by simp [hs])
      next hs _ =>
        split
        · exact grant _ _ (by simp [hs])
        · split
          · exact .refl
          · exact edits_ensureRecall s f
      · exact edits_ensureRecall s f
      all_goals exact .refl

theorem edits_advance (s : State) (forced : Bool) (f : Nat) : Edits B s (s.advance forced f) :=
  edits_advanceFuel forced f _ s

theorem edits_afterLeaving (s : State) (forced : Bool) (f : Nat) :
    Edits B s (s.afterLeaving forced f) := by
  unfold State.afterLeaving
  dsimp only
  split
  next hs =>
    split
    · have freed : Edits B s (s.putEntry f { s.entry f with state := .free, pinned := false }) :=
        edits_putEntry (ne_reset_of_inUse hs) nofun
      exact freed.trans (edits_advance _ _ _)
    · exact edits_advance _ _ _
  · exact .refl

theorem edits_leave (s : State) (f : Nat) (p : Port) : Edits B s (s.leave f p).1 := by
  have left : Edits B s (s.putEntry f { s.entry f with holders := (s.entry f).holders.set p false }) :=
    Edits.one (Edit.entry s f _ (.inr (.inr fun reset => by rw [reset]; cases p <;> rfl)) id)
  exact left.trans (edits_leaveToRelease _ f p)

theorem edits_withdraw (s : State) (f : Nat) (p : Port) : Edits B s (s.withdraw f p) := by
  have dequeued : Edits B s (s.putEntry f
      { s.entry f with queue := (s.entry f).queue.filter (fun w => w.port != p) }) :=
    Edits.one (Edit.entry s f _ (.inr (.inr fun reset => by rw [reset]; rfl)) id)
  have withdrawn := dequeued.trans (edits_returnRecord _ p)
  unfold State.withdraw
  dsimp only
  split
  · exact (withdrawn.trans (edits_dropRecall _ _)).trans (edits_advance _ _ _)
  · exact withdrawn

theorem edits_refuseWaiters (f : Nat) (q : List WaitRec) (s : State) :
    Edits B s (State.refuseWaiters f q s) := by
  induction q generalizing s with
  | nil => exact .refl
  | cons w rest ih =>
    exact ((edits_returnRecord s w.port).trans (edits_post _ _ _)).trans (ih _)

theorem edits_poison {s : State} {f : Nat} (accessor : Option Port)
    (h : inUse (s.entry f).state = true) : Edits B s (s.poison f accessor) := by
  unfold State.poison
  dsimp only
  have poisoned : Edits B s (s.putEntry f { s.entry f with state := .poisoned, pinned := false }) :=
    edits_putEntry (ne_reset_of_inUse h) nofun
  have emptied : ∀ t : State, Edits B t (t.putEntry f { t.entry f with queue := [] }) := fun t =>
    Edits.one (Edit.entry t f _ (.inr (.inr fun reset => by rw [reset]; rfl)) id)
  exact (((poisoned.trans (edits_dropRecall _ _)).trans (edits_postSet _ _ _)).trans
    (edits_refuseWaiters _ _ _)).trans (emptied _)

theorem edits_quarantine {s : State} {f : Nat} (p : Port) (h : (s.entry f).state = .priv) :
    Edits B s (s.quarantine f p) := by
  have quarantined : Edits B s (s.putEntry f { s.entry f with
      holders := (s.entry f).holders.set p false, state := .quarantined, pinned := false }) :=
    edits_putEntry (ne_reset_of_state (by simp [h])) nofun
  exact (quarantined.trans (edits_dropRecall _ _)).trans (edits_postSet _ _ _)

theorem edits_giveUp (s : State) (f : Nat) (p : Port) : Edits B s (s.giveUp f p) := by
  unfold State.giveUp
  split
  next h => exact edits_quarantine p h
  · exact (edits_leave s f p).trans (edits_afterLeaving _ _ _)

theorem edits_foldl {op : State → Nat → State} (h : ∀ s f, Edits B s (op s f)) (l : List Nat)
    (s : State) : Edits B s (l.foldl op s) := by
  induction l generalizing s with
  | nil => exact .refl
  | cons f rest ih => exact (h s f).trans (ih _)

theorem edits_withdrawAll (s : State) (p : Port) : Edits B s (s.withdrawAll p) :=
  (edits_rest (t := s.nextDraw) rfl).trans (edits_foldl (fun t f => edits_withdraw t f p) _ _)

theorem edits_giveUpAll (s : State) (p : Port) : Edits B s (s.giveUpAll p) :=
  (edits_rest (t := s.nextDraw) rfl).trans (edits_foldl (fun t f => edits_giveUp t f p) _ _)

theorem edits_freeTokenOf (s : State) (p : Port) (may : B.token) : Edits B s (s.freeTokenOf p) := by
  unfold State.freeTokenOf
  split
  · exact Edits.one (Edit.token s none may)
  · exact .refl

theorem edits_dropNotify (s : State) (p : Port) : Edits B s (s.dropNotify p) := edits_rest rfl

theorem edits_discardAnswer (s : State) (p : Port) : Edits B s (s.discardAnswer p) := by
  unfold State.discardAnswer
  split
  · split <;> exact edits_rest rfl
  · exact .refl

/-! ### The operations of the memory port -/

theorem edits_answerBus (s : State) (p : Port) (error : Bool) (data : List Word) :
    Edits B s (s.answerBus p error data) := edits_setUnit_same rfl rfl rfl rfl rfl rfl

theorem edits_setResults (s : State) (p : Port) (r : Words4) : Edits B s (s.setResults p r) :=
  edits_setUnit_same rfl rfl rfl rfl rfl rfl

theorem edits_clearMap (s : State) (p : Port) (c : Context) (page : Nat) :
    Edits B s (s.clearMap p c page) :=
  Edits.one (Edit.unit s p _ (UnitEdit.setMap _ c (sparse_rising_erase page)
    (fun x hx => .inr ⟨x, (sparse_mem_erase.1 hx).1, rfl⟩))
    fun online => .inl ((setMap_online _ _ _).trans online))

theorem edits_writeMap {s : State} {p : Port} {c : Context} {page : Nat} {m : MapEntry}
    (h : m.frame < s.frames ∨ ∃ y ∈ (s.unit p).mapOf c, y.2.frame = m.frame) :
    Edits B s (s.writeMap p c page m) :=
  Edits.one (Edit.unit s p _ (UnitEdit.setMap _ c (sparse_rising_put page m) (fun x hx => by
    rcases sparse_mem_put.1 hx with rfl | ⟨hx, _⟩
    · exact h
    · exact .inr ⟨x, hx, rfl⟩)) fun online => .inl ((setMap_online _ _ _).trans online))

/-- What a sparse list is found to hold is listed. -/
theorem sparse_mem_of_find {α : Type} {l : List (Nat × α)} {a : Nat} {v : α}
    (h : Sparse.find? l a = some v) : (a, v) ∈ l := by
  induction l with
  | nil => cases h
  | cons c t ih =>
    rw [Sparse.find?] at h
    split at h
    next ha =>
      cases h
      simp [ha]
    next => exact List.mem_cons_of_mem _ (ih h)

theorem edits_repair (s : State) (r : Request) (cause : FaultCause) : Edits B s (s.repair r cause) := by
  unfold State.repair
  split
  · exact .refl
  next m hm =>
    split
    · split
      · exact edits_clearMap _ _ _ _
      · exact edits_writeMap (.inr ⟨_, sparse_mem_of_find hm, rfl⟩)
      · exact .refl
    · exact .refl

theorem edits_serveWindow (s : State) (r : Request) : Edits B s (s.serveWindow r).1 := by
  unfold State.serveWindow
  split
  · exact ((edits_repair s r _).trans (edits_post _ _ _)).trans (edits_answerBus _ _ _ _)
  · split
    · exact edits_answerBus _ _ _ _
    · exact edits_rest rfl

theorem edits_takeWaiting (s : State) (q : Requester) : Edits B s (s.takeWaiting q) := by
  unfold State.takeWaiting
  cases q with
  | port p =>
    exact (edits_setUnit_same (p := p) (u := { s.unit p with request := none }) rfl rfl rfl rfl rfl
      rfl).trans (edits_rest rfl)
  | scrub => exact edits_rest rfl

theorem edits_arbitrateFuel (n : Nat) (s : State) : Edits B s (State.arbitrateFuel n s) := by
  induction n generalizing s with
  | zero => exact edits_rest rfl
  | succ n ih =>
    rw [State.arbitrateFuel]
    split
    · exact edits_rest rfl
    · exact (edits_takeWaiting s _).trans (edits_rest rfl)
    next q r _ _ =>
      have served : Edits B s ((s.takeWaiting q).serveWindow r).1 :=
        (edits_takeWaiting s q).trans (edits_serveWindow _ r)
      dsimp only
      split
      · split
        · exact served.trans (edits_rest rfl)
        · exact served.trans (ih _)
      · exact served

theorem edits_posted (s : State) : Edits B s s.posted := by
  unfold State.posted
  split
  · exact edits_arbitrateFuel 5 s
  · exact .refl

theorem edits_afterService (s : State) : Edits B s s.afterService := by
  unfold State.afterService
  split
  · exact edits_rest rfl
  · exact edits_arbitrateFuel 5 s

theorem edits_postHeld (s : State) (p : Port) : Edits B s (s.postHeld p) := by
  rw [postHeld_eq]
  exact edits_setUnit_same rfl rfl rfl rfl rfl rfl

theorem edits_endUncorrectable {s : State} {r : Request} (discard : Bool) {b : BurstResult}
    (place : Nat) (hb : Memory.wf s.memory → Memory.wf b.memory) (may : B.array) :
    Edits B s (s.endUncorrectable r discard b place) := by
  let s0 : State := { s with memory := b.memory }
  let s1 := if discard then s0
    else s0.post r.port (.fault (r.addr + 4 * place) r.context r.access r.burst .uncorrectable)
  let s2 := if inUse (s1.entry r.frame).state then
      s1.poison r.frame (if discard then none else some r.port) else s1
  let s3 := if discard then s2.postHeld r.port else s2.answerBus r.port true b.delivered
  have performed : Edits B s s0 := Edits.one (Edit.memory s b.memory hb may)
  have faulted : Edits B s0 s1 := by
    by_cases hd : discard = true
    · simp only [s1, hd, if_true]
      exact .refl
    · simp only [s1, hd]
      exact edits_post _ _ _
  have poisoned : Edits B s1 s2 := by
    by_cases hu : inUse (s1.entry r.frame).state = true
    · simp only [s2, if_pos hu]
      exact edits_poison _ hu
    · simp only [s2, if_neg hu]
      exact .refl
  have told : Edits B s2 s3 := by
    by_cases hd : discard = true
    · simp only [s3, hd, if_true]
      exact edits_postHeld _ _
    · simp only [s3, hd]
      exact edits_answerBus _ _ _ _
  exact (((performed.trans faulted).trans poisoned).trans told).trans (edits_afterService s3)

theorem edits_endPerformed {s : State} {r : Request} (discard : Bool) {b : BurstResult}
    (hb : Memory.wf s.memory → Memory.wf b.memory) (may : B.array) :
    Edits B s (s.endPerformed r discard b) := by
  have performed : Edits B s { s with memory := b.memory } := Edits.one (Edit.memory s b.memory hb may)
  unfold State.endPerformed
  cases discard with
  | false => exact (performed.trans (edits_answerBus _ _ _ _)).trans (edits_afterService _)
  | true => exact (performed.trans (edits_postHeld _ _)).trans (edits_afterService _)

/-! ### The scrub engine -/

theorem edits_postScrub (s : State) (f b : Nat) : Edits B s (s.postScrub f b) :=
  (edits_rest (t := { s with burst := b, scrubRequest := some ⟨f, b⟩ }) rfl).trans (edits_posted _)

theorem edits_appendScrub {s : State} {f : Nat} (origin : Origin) (notify : Option Port)
    (listed : f < s.frames ∨ s.entry f ≠ Entry.reset) :
    Edits B s (s.appendScrub f origin notify) := by
  let s1 := s.putEntry f { s.entry f with state := .scrubbing, pinned := false }
  let s2 : State := { s1 with scrubQueue := s1.scrubQueue ++ [⟨f, origin, notify⟩] }
  have appended : Edits B s s2 :=
    (Edits.one (Edit.entry s f { s.entry f with state := .scrubbing, pinned := false }
      (listed.imp_right fun ne => .inr fun reset => absurd reset ne) nofun)).trans (edits_rest rfl)
  show Edits B s (if s.scrubQueue.isEmpty then s2.postScrub f 0 else s2)
  split
  · exact appended.trans (edits_postScrub s2 f 0)
  · exact appended

theorem edits_sweep (s : State) : Edits B s s.sweep := by
  unfold State.sweep
  split
  · split
    next h => exact edits_appendScrub _ _ (.inl (lowestInState_some h).1)
    · exact .refl
  · exact .refl

theorem edits_completeScrub {s : State} (hB : ∀ d ∈ s.scrubQueue, B.listed d.frame) :
    Edits B s s.completeScrub := by
  unfold State.completeScrub
  split
  · exact .refl
  next d rest hq =>
    let s1 : State := { s with scrubQueue := rest }
    let s2 := s1.putEntry d.frame { s1.entry d.frame with state := .free }
    let s3 := match d.notify with
      | some p => s2.post p (.scrubDone d.frame)
      | none => s2
    have freed : Edits B s1 s2 :=
      Edits.one (Edit.entry s1 d.frame _ (.inr (.inl (hB d (by simp [hq])))) nofun)
    have told : Edits B s2 s3 := by
      cases hn : d.notify with
      | none =>
        simp only [s3, hn]
        exact .refl
      | some p =>
        simp only [s3, hn]
        exact edits_post _ _ _
    have advanced : Edits B s (s3.advance false d.frame) :=
      (((edits_rest (t := s1) rfl).trans freed).trans told).trans (edits_advance s3 false d.frame)
    show Edits B s (match (s3.advance false d.frame).scrubQueue with
      | [] => (s3.advance false d.frame).sweep
      | n :: _ => (s3.advance false d.frame).postScrub n.frame 0)
    split
    · exact advanced.trans (edits_sweep _)
    · exact advanced.trans (edits_postScrub _ _ _)

/-! ### The commands -/

theorem edits_reply (s : State) (p : Port) (c : ResultCode) (r1 r2 r3 : Word) :
    Edits B s (s.reply p c r1 r2 r3) := edits_setResults s p _

theorem edits_refuse (s : State) (p : Port) (c : ResultCode) : Edits B s (s.refuse p c) :=
  edits_setResults s p _

theorem edits_takeCode (s : State) (p : Port) (code : Word) : Edits B s (s.takeCode p code) :=
  edits_setUnit_same rfl rfl rfl rfl rfl rfl

/-- A command is edits if its owner is, on every part of as many frames. -/
theorem edits_issue {α : Type} {s : State} {p : Port} {code : Word} {off : Bool} {args : Option α}
    {owner : α → State → State}
    (h : ∀ a t, args = some a → t.frames = s.frames → Edits B t (owner a t)) :
    Edits B s (s.issue p code off args owner) := by
  have taken := edits_takeCode (B := B) s p code
  unfold State.issue
  split
  · dsimp only
    split
    · exact taken.trans (edits_refuse _ _ _)
    · split
      · exact taken.trans (edits_refuse _ _ _)
      next a => exact taken.trans (h a _ rfl rfl)
  · exact .refl

theorem edits_issueAuthority {α : Type} {s : State} {p : Port} {code : Word} {args : Option α}
    {owner : α → State → State}
    (h : ∀ a t, args = some a → t.frames = s.frames → Edits B t (owner a t)) :
    Edits B s (s.issueAuthority p code args owner) := by
  have taken := edits_takeCode (B := B) s p code
  have renewal : ∀ t : State, Edits B t t.renewLease := fun _ => edits_rest rfl
  unfold State.issueAuthority
  split
  · dsimp only
    split
    · exact taken.trans (edits_refuse _ _ _)
    · split
      · exact taken.trans (edits_refuse _ _ _)
      · split
        · exact (taken.trans (edits_refuse _ _ _)).trans (renewal _)
        next a => exact (taken.trans (h a _ rfl rfl)).trans (renewal _)
  · exact .refl

theorem edits_takeClaim {s : State} (p : Port) {f : Nat} {m : Mode} (tag : BitVec 8) {o : ClaimOutcome}
    (hf : f < s.frames) : Edits B s (s.takeClaim p f m tag o) := by
  have used : (takenEntry (s.entry f) p m o).state = .uninitialized →
      (s.entry f).state = .uninitialized := by
    cases o <;> cases m <;> simp [takenEntry, heldState]
  have taken : Edits B s (s.putEntry f (takenEntry (s.entry f) p m o)) :=
    Edits.one (Edit.entry s f _ (.inl hf) used)
  unfold State.takeClaim State.claimReply
  dsimp only
  split
  · exact (taken.trans (edits_advance _ _ _)).trans (edits_reply _ _ _ _ _ _)
  · exact taken.trans (edits_reply _ _ _ _ _ _)

theorem edits_queueClaim {s : State} (p : Port) {f : Nat} (m : Mode) (tag : BitVec 8)
    (hf : f < s.frames) : Edits B s (s.queueClaim p f m tag) := by
  let s2 := (s.takeRecord p).putEntry f
    { s.entry f with queue := (s.entry f).queue ++ [⟨p, m, tag, s.arrival⟩] }
  let promoted := (s.entry f).state == .uninitialized && scrubRoom s
  let s3 := if promoted then s2.appendScrub f .promotion none else s2
  let s4 := if (s.entry f).queue.isEmpty then s3.advance false f else s3
  have queued : Edits B s s2 :=
    (edits_takeRecord s p).trans (Edits.one (Edit.entry (s.takeRecord p) f _ (.inl hf) id))
  have promotion : Edits B s2 s3 := by
    by_cases hp : promoted = true
    · simp only [s3, if_pos hp]
      exact edits_appendScrub _ _ (.inl hf)
    · simp only [s3, if_neg hp]
      exact .refl
  have advanced : Edits B s3 s4 := by
    by_cases hq : (s.entry f).queue.isEmpty = true
    · simp only [s4, if_pos hq]
      exact edits_advance _ _ _
    · simp only [s4, if_neg hq]
      exact .refl
  exact ((queued.trans promotion).trans advanced).trans (edits_reply s4 _ _ _ _ _)

theorem edits_ownClaim {s : State} (p : Port) (a : Nat × Mode × BitVec 8) (hf : a.1 < s.frames) :
    Edits B s (ownClaim p a s) := by
  obtain ⟨f, m, tag⟩ := a
  simp only [ownClaim]
  split
  · exact edits_refuse _ _ _
  · split
    · exact edits_refuse _ _ _
    · split
      · exact edits_takeClaim p tag hf
      · exact edits_refuse _ _ _
      · split
        · exact edits_refuse _ _ _
        · split
          · exact edits_refuse _ _ _
          · exact edits_queueClaim p m tag hf

theorem edits_ownRelease (p : Port) (a : Nat × Bool) (s : State) (hf : a.1 < s.frames) :
    Edits B s (ownRelease p a s) := by
  obtain ⟨f, clear⟩ := a
  have left := edits_leave (B := B) s f p
  have frames : (((s.leave f p).1).dropRecall f).frames = s.frames := by
    rw [((directoryChange_leave s f p).trans (directoryChange_dropRecall _ f)).1]
  simp only [ownRelease]
  split
  · exact edits_refuse _ _ _
  · split
    · exact edits_refuse _ _ _
    · split
      · exact ((left.trans (edits_dropRecall _ f)).trans
          (edits_appendScrub _ _ (.inl (frames ▸ hf)))).trans (edits_reply _ _ _ _ _ _)
      · exact (left.trans (edits_afterLeaving _ _ _)).trans (edits_reply _ _ _ _ _ _)

theorem edits_ownSelectContext (p : Port) (c : Context) (s : State) :
    Edits B s (ownSelectContext p c s) := by
  have selected : Edits B s (s.setUnit p { s.unit p with context := c }) :=
    edits_setUnit_same rfl rfl rfl rfl rfl rfl
  exact selected.trans (edits_reply _ _ _ _ _ _)

theorem edits_setMapFor {s : State} (p q : Port) (c : Context) (page : Nat) {f : Nat} (write : Bool)
    (hf : f < s.frames) : Edits B s (s.setMapFor p q c page f write) := by
  unfold State.setMapFor
  split
  · exact edits_refuse _ _ _
  · exact (edits_writeMap (.inl hf)).trans (edits_reply _ _ _ _ _ _)

theorem edits_clearMapFor (s : State) (p q : Port) (c : Context) (page : Nat) :
    Edits B s (s.clearMapFor p q c page) :=
  (edits_clearMap _ _ _ _).trans (edits_reply _ _ _ _ _ _)

theorem edits_detachPort (s : State) (p : Port) (may : B.token)
    (leaves : B.offline p) : Edits B s (s.detachPort p) := by
  let t := ((s.withdrawAll p).freeTokenOf p).dropNotify p
  have maps : UnitEdit t.frames (t.unit p) { t.unit p with map0 := [], map1 := [], context := .c0 } :=
    { events := List.suffix_refl _, overrun := id, online := .inr (.inl rfl), holding := rfl,
      rising := fun c _ => by cases c <;> exact List.Pairwise.nil,
      names := fun c m hm => by cases c <;> cases hm }
  have empty : ∀ u : PortUnit, UnitEdit t.frames u
      { u with waiting := 0, events := [], overrun := false, online := false } := fun u =>
    { events := List.nil_suffix, overrun := nofun, online := .inr (.inr ⟨rfl, rfl⟩), holding := rfl,
      rising := fun c h => by cases c <;> exact h,
      names := fun c m hm => .inr ⟨m, by cases c <;> exact hm, rfl⟩ }
  have departed : Edits B s (t.clearMaps p) :=
    (((edits_withdrawAll s p).trans (edits_freeTokenOf _ p may)).trans (edits_dropNotify _ p)).trans
      (Edits.one (Edit.unit t p _ maps .inl))
  exact departed.trans (Edits.one (Edit.unit (t.clearMaps p) p _ (empty _) fun _ => .inr leaves))

theorem edits_ownSetParameter (p : Port) (a : Nat × Nat) (s : State) :
    Edits B s (ownSetParameter p a s) := by
  obtain ⟨id, value⟩ := a
  simp only [ownSetParameter]
  split
  · exact edits_refuse _ _ _
  next h =>
    split
    · have written : Edits B s { s with recallTimeout := value } :=
        Edits.one (Edit.params s value s.leaseParam fun hs =>
          ⟨⟨show 1 ≤ value by omega, show value ≤ 65535 by omega⟩, hs.2⟩)
      exact written.trans (edits_reply _ _ _ _ _ _)
    · have written : Edits B s { s with leaseParam := value } :=
        Edits.one (Edit.params s s.recallTimeout value fun hs =>
          ⟨hs.1, show 1 ≤ value by omega, show value ≤ 65535 by omega⟩)
      exact written.trans (edits_reply _ _ _ _ _ _)

/-- A write of a control word is an edit of the port's unit. -/
theorem edits_writeControl {s : State} {p : Port} {effect : PortUnit → PortUnit}
    (h : UnitEdit s.frames (s.unit p) { effect (s.unit p) with answer := some ⟨false, []⟩ })
    (online : (effect (s.unit p)).online = (s.unit p).online) : Edits B s (s.writeControl p effect) := by
  unfold State.writeControl
  split
  · exact Edits.one (Edit.unit s p _ h fun h => .inl (online.trans h))
  · exact .refl

theorem edits_ownAttach (p : Port) (a : Unit) (s : State) : Edits B s (ownAttach p a s) := by
  have online : UnitEdit s.frames (s.unit p) { s.unit p with online := true } :=
    { events := List.suffix_refl _, overrun := id, online := .inl rfl, holding := rfl,
      rising := fun c h => by cases c <;> exact h,
      names := fun c m hm => .inr ⟨m, by cases c <;> exact hm, rfl⟩ }
  unfold ownAttach
  split
  · exact edits_refuse _ _ _
  · exact (Edits.one (Edit.unit s p _ online fun _ => .inl rfl)).trans (edits_reply _ _ _ _ _ _)

theorem edits_ownDetach (p : Port) (a : Unit) (s : State) (may : B.token)
    (leaves : B.offline p) : Edits B s (ownDetach p a s) := by
  simp only [ownDetach]
  split
  · exact edits_reply _ _ _ _ _ _
  · exact (edits_detachPort s p may leaves).trans (edits_reply _ _ _ _ _ _)

theorem edits_ownCancel (p : Port) (f : Nat) (s : State) : Edits B s (ownCancel p f s) := by
  simp only [ownCancel]
  split
  · exact edits_refuse _ _ _
  · exact (edits_withdraw s f p).trans (edits_reply _ _ _ _ _ _)

theorem edits_ownMapClearAll (p : Port) (c : Context) (s : State) :
    Edits B s (ownMapClearAll p c s) := by
  have cleared : Edits B s (s.setUnit p ((s.unit p).setMap c [])) :=
    Edits.one (Edit.unit s p _ (UnitEdit.setMap _ c (fun _ => List.Pairwise.nil) nofun)
      fun online => .inl ((setMap_online _ _ _).trans online))
  exact cleared.trans (edits_reply _ _ _ _ _ _)

theorem edits_ownAcquireAuthority (p : Port) (a : Unit) (s : State) (may : B.token) :
    Edits B s (ownAcquireAuthority p a s) := by
  unfold ownAcquireAuthority
  split
  · exact ((Edits.one (Edit.token s (some p) may)).trans
      (edits_rest (t := State.renewLease { s with token := some p }) rfl)).trans
      (edits_reply _ _ _ _ _ _)
  · split
    · exact (edits_rest (s := s) (t := s.renewLease) rfl).trans (edits_reply _ _ _ _ _ _)
    · exact edits_refuse _ _ _

theorem edits_ownAssign {s : State} (p : Port) (a : Nat × Port × Mode) (hf : a.1 < s.frames) :
    Edits B s (ownAssign p a s) := by
  obtain ⟨f, q, m⟩ := a
  have assigned : Edits B s (s.putEntry f { s.entry f with holders := onePort q, state := heldState m }) :=
    Edits.one (Edit.entry s f _ (.inl hf) (by cases m <;> nofun))
  simp only [ownAssign]
  split
  · exact edits_refuse _ _ _
  · split
    · exact edits_refuse _ _ _
    · exact ((assigned.trans (edits_post _ _ _)).trans (edits_advance _ _ _)).trans
        (edits_reply _ _ _ _ _ _)

theorem edits_ownForceRelease (p : Port) (a : Nat × Port) (s : State) :
    Edits B s (ownForceRelease p a s) := by
  obtain ⟨f, q⟩ := a
  simp only [ownForceRelease]
  split
  · exact edits_refuse _ _ _
  · exact (((edits_post s q _).trans (edits_leave _ f q)).trans (edits_afterLeaving _ _ _)).trans
      (edits_reply _ _ _ _ _ _)

theorem edits_ownPin {s : State} (p : Port) {f : Nat} (hf : f < s.frames) :
    Edits B s (ownPin p f s) := by
  have pinned : Edits B s (s.putEntry f { s.entry f with pinned := true }) :=
    Edits.one (Edit.entry s f _ (.inl hf) id)
  simp only [ownPin]
  split
  · exact edits_refuse _ _ _
  · split
    · exact edits_refuse _ _ _
    · exact pinned.trans (edits_reply _ _ _ _ _ _)

theorem edits_ownUnpin {s : State} (p : Port) {f : Nat} (hf : f < s.frames) :
    Edits B s (ownUnpin p f s) := by
  have unpinned : Edits B s (s.putEntry f { s.entry f with pinned := false }) :=
    Edits.one (Edit.entry s f _ (.inl hf) id)
  exact unpinned.trans (edits_reply _ _ _ _ _ _)

theorem edits_ownScrub {s : State} (p : Port) {f : Nat} (hf : f < s.frames) :
    Edits B s (ownScrub p f s) := by
  have revoked : Edits B s (s.putEntry f { s.entry f with holders := noPorts }) :=
    Edits.one (Edit.entry s f _ (.inl hf) id)
  have frames : ((s.putEntry f { s.entry f with holders := noPorts }).postSet (s.entry f).holders
      (.revoked f .scrub)).frames = s.frames := by
    rw [(directoryChange_postSet _ _ _).1]
    rfl
  simp only [ownScrub]
  split
  · exact edits_refuse _ _ _
  · split
    · exact edits_refuse _ _ _
    · exact ((revoked.trans (edits_postSet _ _ _)).trans
        (edits_appendScrub _ _ (.inl (frames ▸ hf)))).trans (edits_reply _ _ _ _ _ _)

theorem edits_ownUnquarantine {s : State} (p : Port) {f : Nat} (hf : f < s.frames) :
    Edits B s (ownUnquarantine p f s) := by
  have freed : Edits B s (s.putEntry f { s.entry f with state := .free }) :=
    Edits.one (Edit.entry s f _ (.inl hf) nofun)
  simp only [ownUnquarantine]
  split
  · exact edits_refuse _ _ _
  · exact (freed.trans (edits_advance _ _ _)).trans (edits_reply _ _ _ _ _ _)

theorem edits_ownMapSetFor {s : State} (p : Port) (a : Port × Context × Nat × Nat × Bool)
    (hf : a.2.2.2.1 < s.frames) : Edits B s (ownMapSetFor p a s) := by
  simp only [ownMapSetFor]
  split
  · exact edits_refuse _ _ _
  · exact edits_setMapFor p _ _ _ _ hf

theorem edits_ownMapClearFor (p : Port) (a : Port × Context × Nat) (s : State) :
    Edits B s (ownMapClearFor p a s) := by
  simp only [ownMapClearFor]
  split
  · exact edits_refuse _ _ _
  · exact edits_clearMapFor _ _ _ _ _

theorem edits_ownReleaseAuthority (p : Port) (s : State) (may : B.token) :
    Edits B s (if s.token = some p then ({ s with token := none } : State).reply p .ok 0 0 0
      else s.refuse p .denied) := by
  split
  · exact (Edits.one (Edit.token s none may)).trans (edits_reply _ _ _ _ _ _)
  · exact edits_refuse _ _ _

theorem edits_expireRecall (s : State) (r : RecallRec) : Edits B s (s.expireRecall r) := by
  have revoked : Edits B s (s.putEntry r.frame { s.entry r.frame with
      holders := withoutSet (s.entry r.frame).holders r.toRelease }) :=
    Edits.one (Edit.entry s r.frame _ (.inr (.inr fun reset => by rw [reset]; rfl)) id)
  exact ((revoked.trans (edits_postSet _ _ _)).trans (edits_dropRecall _ _)).trans
    (edits_afterLeaving _ _ _)

end Directory

end Sys2Proof.Proofs
end

section
/-! PROOFS. Every command's run of edits, and the invariants that the edits keep: the canonical forms, the queue
bounds, the sweep-complete status, the parameters and the maps. -/

namespace Sys2Proof.Proofs
set_option Elab.async false

open Sys2Proof.Machine Sys2Proof.Safety Sys2Proof.Laws

/-! ### The frame that the arguments name is a frame of the part (R2) -/

theorem frameArg_lt {s : State} {v f : Nat} (h : frameArg s v = some f) : f < s.frames := by
  unfold frameArg at h
  split at h
  next hv => cases h; exact hv
  next => cases h

/-- A sequence of argument checks passed: its first check passed, and the others after it. -/
theorem bind_some_inv {α β : Type} {x : Option α} {f : α → Option β} {b : β}
    (h : x.bind f = some b) : ∃ a, x = some a ∧ f a = some b :=
  Option.bind_eq_some_iff.1 h

section Frames

variable {s : State} {p : Port}

theorem claimArgs_lt {a : Nat × Mode × BitVec 8} (h : claimArgs s p = some a) : a.1 < s.frames := by
  obtain ⟨f, hf, h⟩ := bind_some_inv h
  obtain ⟨m, _, h⟩ := bind_some_inv h
  obtain ⟨t, _, h⟩ := bind_some_inv h
  cases h
  exact frameArg_lt hf

theorem releaseArgs_lt {a : Nat × Bool} (h : releaseArgs s p = some a) : a.1 < s.frames := by
  obtain ⟨f, hf, h⟩ := bind_some_inv h
  obtain ⟨c, _, h⟩ := bind_some_inv h
  cases h
  exact frameArg_lt hf

theorem mapSetArgs_lt {a : Context × Nat × Nat × Bool} (h : mapSetArgs s p = some a) :
    a.2.2.1 < s.frames := by
  obtain ⟨c, _, h⟩ := bind_some_inv h
  obtain ⟨g, _, h⟩ := bind_some_inv h
  obtain ⟨f, hf, h⟩ := bind_some_inv h
  obtain ⟨w, _, h⟩ := bind_some_inv h
  cases h
  exact frameArg_lt hf

theorem assignArgs_lt {a : Nat × Port × Mode} (h : assignArgs s p = some a) : a.1 < s.frames := by
  obtain ⟨f, hf, h⟩ := bind_some_inv h
  obtain ⟨q, _, h⟩ := bind_some_inv h
  obtain ⟨m, _, h⟩ := bind_some_inv h
  cases h
  exact frameArg_lt hf

theorem mapSetForArgs_lt {a : Port × Context × Nat × Nat × Bool} (h : mapSetForArgs s p = some a) :
    a.2.2.2.1 < s.frames := by
  obtain ⟨q, _, h⟩ := bind_some_inv h
  obtain ⟨c, _, h⟩ := bind_some_inv h
  obtain ⟨g, _, h⟩ := bind_some_inv h
  obtain ⟨f, hf, h⟩ := bind_some_inv h
  obtain ⟨w, _, h⟩ := bind_some_inv h
  cases h
  exact frameArg_lt hf

end Frames

/-! ### Every command is a run of edits -/

section Commands

variable {B : Scope}

theorem edits_windowAccess (s : State) (p : Port) (access : Access) (addr : BitVec 21) (burst : Nat)
    (enables : BitVec 4) (data : List Word) :
    ∃ t, exec (.windowAccess p access addr burst enables data) s = .next t ∧ Edits B s t := by
  simp only [exec, execWindowAccess]
  split
  · split
    · exact ⟨_, rfl, edits_answerBus _ _ _ _⟩
    · split
      · exact ⟨_, rfl, (edits_post _ _ _).trans (edits_answerBus _ _ _ _)⟩
      · split
        · exact ⟨_, rfl, edits_setUnit_same rfl rfl rfl rfl rfl rfl⟩
        next m _ _ =>
          have waits : Edits B s (s.setUnit p { s.unit p with
              request := some (requestOf p (s.unit p) m access addr burst enables data),
              answer := none }) := edits_setUnit_same rfl rfl rfl rfl rfl rfl
          exact ⟨_, rfl, waits.trans (edits_posted _)⟩
  · exact ⟨_, rfl, .refl⟩

theorem edits_windowRequestComplete (s : State) (upsets : List Bits39) (may : B.array) :
    ∃ t, exec (.windowRequestComplete upsets) s = .next t ∧ Edits B s t := by
  simp only [exec, execWindowRequestComplete]
  split
  next r discard _ =>
    refine ⟨_, rfl, ?_⟩
    simp only [State.endWindow]
    split
    · exact edits_endUncorrectable _ _ (memory_wf_performPlaces r upsets _) may
    · exact edits_endPerformed _ (memory_wf_performPlaces r upsets _) may
  · exact ⟨_, rfl, .refl⟩

theorem edits_uncorrectableError (s : State) (upsets : List Bits39) (may : B.array) :
    ∃ t, exec (.uncorrectableError upsets) s = .next t ∧ Edits B s t := by
  simp only [exec, execUncorrectableError]
  split
  next r discard _ =>
    split
    · exact ⟨_, rfl, edits_endUncorrectable _ _ (memory_wf_performPlaces r upsets _) may⟩
    · exact ⟨_, rfl, .refl⟩
  · exact ⟨_, rfl, .refl⟩

theorem edits_scrubBurstComplete {s : State} (hB : ∀ d ∈ s.scrubQueue, B.listed d.frame)
    (may : B.array) :
    ∃ t, exec .scrubBurstComplete s = .next t ∧ Edits B s t := by
  simp only [exec, execScrubBurstComplete]
  split
  next q _ =>
    let s1 : State := { s with memory := scrubPlaces q (List.range 8) s.memory }
    have written : Edits B s s1 :=
      Edits.one (Edit.memory s _ (memory_wf_scrubPlaces q (List.range 8)) may)
    refine ⟨_, rfl, ?_⟩
    split
    · exact (written.trans (edits_postScrub s1 _ _)).trans (edits_afterService _)
    · exact (written.trans (edits_completeScrub (s := s1) hB)).trans (edits_afterService _)
  · exact ⟨_, rfl, .refl⟩

theorem edits_leaseExpiry (s : State) (may : B.token) :
    ∃ t, exec .authorityLeaseExpiry s = .next t ∧ Edits B s t := by
  simp only [exec, execAuthorityLeaseExpiry]
  split
  · exact ⟨_, rfl, .refl⟩
  · split
    · exact ⟨_, rfl, (Edits.one (Edit.token s none may)).trans (edits_post _ _ _)⟩
    · exact ⟨_, rfl, .refl⟩

theorem edits_timers (s : State) {i : Instr} (h : i = .refreshTimerExpiry ∨ i = .refreshComplete ∨
    ∃ f, i = .recallDeadline f) : ∃ t, exec i s = .next t ∧ Edits B s t := by
  rcases h with rfl | rfl | ⟨f, rfl⟩
  · simp only [exec, execRefreshTimerExpiry]
    split
    · split
      · exact ⟨_, rfl, edits_rest rfl⟩
      · exact ⟨_, rfl, edits_rest rfl⟩
    · exact ⟨_, rfl, .refl⟩
  · simp only [exec, execRefreshComplete]
    split
    · exact ⟨_, rfl, edits_afterService s⟩
    · exact ⟨_, rfl, .refl⟩
  · simp only [exec, execRecallDeadline]
    split
    · exact ⟨_, rfl, .refl⟩
    · split
      · exact ⟨_, rfl, edits_expireRecall s _⟩
      · exact ⟨_, rfl, .refl⟩

/-- The writes of the control region that are no command: one unit, in what no invariant counts. -/
theorem edits_controlWrites (s : State) (p : Port) :
    (∀ code, ∃ t, exec (.badCommand p code) s = .next t ∧ Edits B s t) ∧
    (∀ v, ∃ t, exec (.portStatusWrite p v) s = .next t ∧ Edits B s t) ∧
    (∀ v, ∃ t, exec (.intEnableWrite p v) s = .next t ∧ Edits B s t) ∧
    (∀ v, ∃ t, exec (.eventPop p v) s = .next t ∧ Edits B s t) ∧
    (∀ n v, ∃ t, exec (.registerWrite p n v) s = .next t ∧ Edits B s t) ∧
    (∀ a addr n, ∃ t, exec (.controlAccessError p a addr n) s = .next t ∧ Edits B s t) := by
  have keepsMaps : ∀ {u v : PortUnit}, v.map0 = u.map0 → v.map1 = u.map1 →
      (∀ c, Sparse.rising (u.mapOf c) → Sparse.rising (v.mapOf c)) ∧
      ∀ c, ∀ m ∈ v.mapOf c, m.2.frame < s.frames ∨ ∃ m' ∈ u.mapOf c, m'.2.frame = m.2.frame := by
    intro u v h0 h1
    have same : ∀ c, v.mapOf c = u.mapOf c := fun c => by cases c <;> assumption
    exact ⟨fun c h => (same c).symm ▸ h, fun c m hm => .inr ⟨m, same c ▸ hm, rfl⟩⟩
  refine ⟨fun code => ?_, fun v => ?_, fun v => ?_, fun v => ?_, fun n v => ?_, fun a addr n => ?_⟩
  · simp only [exec, execBadCommand]
    split
    · exact ⟨_, rfl, (edits_takeCode s p code).trans (edits_refuse _ _ _)⟩
    · exact ⟨_, rfl, .refl⟩
  · refine ⟨_, rfl, edits_writeControl ?_ (by split <;> rfl)⟩
    split
    · exact { events := List.suffix_refl _, overrun := nofun, online := .inr (.inl rfl), holding := rfl,
              rising := (keepsMaps rfl rfl).1, names := (keepsMaps rfl rfl).2 }
    · exact UnitEdit.of_same rfl rfl rfl rfl rfl rfl
  · exact ⟨_, rfl, edits_writeControl (UnitEdit.of_same rfl rfl rfl rfl rfl rfl) rfl⟩
  · exact ⟨_, rfl, edits_writeControl
      { events := List.tail_suffix _, overrun := id, online := .inr (.inl rfl), holding := rfl,
        rising := (keepsMaps rfl rfl).1, names := (keepsMaps rfl rfl).2 } rfl⟩
  · simp only [exec, execRegisterWrite]
    split
    · exact ⟨_, rfl, edits_writeControl (UnitEdit.of_same rfl rfl rfl rfl rfl rfl) rfl⟩
    · exact ⟨_, rfl, .refl⟩
  · simp only [exec, execControlAccessError]
    split
    · exact ⟨_, rfl, edits_answerBus _ _ _ _⟩
    · exact ⟨_, rfl, .refl⟩

/-- The rows that end a burst (R114, R115, R127). -/
def EndsBurst (i : Instr) : Prop :=
  (∃ u, i = .windowRequestComplete u) ∨ (∃ u, i = .uncorrectableError u) ∨ i = .scrubBurstComplete

/-- The rows that can grant or free the token, but for the resets (R141, R144, R145, R168). -/
def MovesToken (i : Instr) : Prop :=
  (∃ p, i = .acquireAuthority p) ∨ (∃ p, i = .releaseAuthority p) ∨ (∃ p, i = .detach p) ∨
    i = .authorityLeaseExpiry

/-- Every command but the two resets and the release of RSTn answers next, by a run of edits: of the array at
the end of a burst alone, of the token in the commands that are about it. -/
theorem exec_edits (i : Instr) {s : State} (hB : ∀ d ∈ s.scrubQueue, B.listed d.frame)
    (hpart : i ≠ .partReset) (hrelease : ∀ strap, i ≠ .rstnRelease strap)
    (hreset : ∀ p, i ≠ .portReset p) (harray : EndsBurst i → B.array)
    (htoken : MovesToken i → B.token) (hoffline : ∀ p, i = .detach p → B.offline p) :
    ∃ t, exec i s = .next t ∧ Edits B s t := by
  cases i with
  | partReset => exact absurd rfl hpart
  | rstnRelease strap => exact absurd rfl (hrelease strap)
  | portReset p => exact absurd rfl (hreset p)
  | prstnRelease p => exact ⟨_, rfl, edits_setUnit_same rfl rfl rfl rfl rfl rfl⟩
  | attach p => exact ⟨_, rfl, edits_issue fun a t _ _ => edits_ownAttach p a t⟩
  | detach p => exact ⟨_, rfl, edits_issue fun a t _ _ =>
      edits_ownDetach p a t (htoken (.inr (.inr (.inl ⟨p, rfl⟩)))) (hoffline p rfl)⟩
  | probeFrame p => exact ⟨_, rfl, edits_issue fun _ _ _ _ => edits_reply _ _ _ _ _ _⟩
  | claim p =>
    exact ⟨_, rfl, edits_issue fun a t ha ht => edits_ownClaim p a (ht ▸ claimArgs_lt ha)⟩
  | cancel p => exact ⟨_, rfl, edits_issue fun f t _ _ => edits_ownCancel p f t⟩
  | release p =>
    exact ⟨_, rfl, edits_issue fun a t ha ht => edits_ownRelease p a t (ht ▸ releaseArgs_lt ha)⟩
  | selectContext p =>
    exact ⟨_, rfl, edits_issue fun c t _ _ => edits_ownSelectContext p c t⟩
  | mapSet p =>
    exact ⟨_, rfl, edits_issue fun a t ha ht => edits_setMapFor p p _ _ _ (ht ▸ mapSetArgs_lt ha)⟩
  | mapClear p => exact ⟨_, rfl, edits_issue fun a t _ _ => edits_clearMapFor t p p _ _⟩
  | mapClearAll p => exact ⟨_, rfl, edits_issue fun c t _ _ => edits_ownMapClearAll p c t⟩
  | probePage p => exact ⟨_, rfl, edits_issue fun _ _ _ _ => edits_reply _ _ _ _ _ _⟩
  | acquireAuthority p => exact ⟨_, rfl, edits_issue fun a t _ _ =>
      edits_ownAcquireAuthority p a t (htoken (.inl ⟨p, rfl⟩))⟩
  | renewAuthority p => exact ⟨_, rfl, edits_issueAuthority fun _ _ _ _ => edits_reply _ _ _ _ _ _⟩
  | releaseAuthority p => exact ⟨_, rfl, edits_issue fun _ t _ _ =>
      edits_ownReleaseAuthority p t (htoken (.inr (.inl ⟨p, rfl⟩)))⟩
  | assign p =>
    exact ⟨_, rfl, edits_issueAuthority fun a t ha ht => edits_ownAssign p a (ht ▸ assignArgs_lt ha)⟩
  | forceRelease p => exact ⟨_, rfl, edits_issueAuthority fun a t _ _ => edits_ownForceRelease p a t⟩
  | pin p => exact ⟨_, rfl, edits_issueAuthority fun f t hf ht => edits_ownPin p (ht ▸ frameArg_lt hf)⟩
  | unpin p =>
    exact ⟨_, rfl, edits_issueAuthority fun f t hf ht => edits_ownUnpin p (ht ▸ frameArg_lt hf)⟩
  | scrub p =>
    exact ⟨_, rfl, edits_issueAuthority fun f t hf ht => edits_ownScrub p (ht ▸ frameArg_lt hf)⟩
  | unquarantine p =>
    exact ⟨_, rfl, edits_issueAuthority fun f t hf ht => edits_ownUnquarantine p (ht ▸ frameArg_lt hf)⟩
  | mapSetFor p =>
    exact ⟨_, rfl, edits_issueAuthority fun a t ha ht =>
      edits_ownMapSetFor p a (ht ▸ mapSetForArgs_lt ha)⟩
  | mapClearFor p => exact ⟨_, rfl, edits_issueAuthority fun a t _ _ => edits_ownMapClearFor p a t⟩
  | setParameter p => exact ⟨_, rfl, edits_issueAuthority fun a t _ _ => edits_ownSetParameter p a t⟩
  | badCommand p code => exact (edits_controlWrites s p).1 code
  | portStatusWrite p v => exact (edits_controlWrites s p).2.1 v
  | intEnableWrite p v => exact (edits_controlWrites s p).2.2.1 v
  | eventPop p v => exact (edits_controlWrites s p).2.2.2.1 v
  | registerWrite p n v => exact (edits_controlWrites s p).2.2.2.2.1 n v
  | controlAccessError p a addr n => exact (edits_controlWrites s p).2.2.2.2.2 a addr n
  | windowAccess p a addr n en data => exact edits_windowAccess s p a addr n en data
  | windowRequestComplete upsets =>
    exact edits_windowRequestComplete s upsets (harray (.inl ⟨_, rfl⟩))
  | uncorrectableError upsets =>
    exact edits_uncorrectableError s upsets (harray (.inr (.inl ⟨_, rfl⟩)))
  | scrubBurstComplete => exact edits_scrubBurstComplete hB (harray (.inr (.inr rfl)))
  | refreshTimerExpiry => exact edits_timers s (.inl rfl)
  | refreshComplete => exact edits_timers s (.inr (.inl rfl))
  | recallDeadline f => exact edits_timers s (.inr (.inr ⟨f, rfl⟩))
  | authorityLeaseExpiry => exact edits_leaseExpiry s (htoken (.inr (.inr (.inr rfl))))

/-- What a port reset ends and frees, before the port's unit is reset (R170 to R175). -/
def State.departed (s : State) (p : Port) : State :=
  ((((s.withdrawAll p).giveUpAll p).freeTokenOf p).dropNotify p).discardAnswer p

theorem depart_eq (s : State) (p : Port) : s.depart p = (State.departed s p).resetUnit p := rfl

theorem edits_departed (s : State) (p : Port) (may : B.token) : Edits B s (State.departed s p) :=
  ((((edits_withdrawAll s p).trans (edits_giveUpAll _ p)).trans (edits_freeTokenOf _ p may)).trans
    (edits_dropNotify _ p)).trans (edits_discardAnswer _ p)

/-- The part at the release of RSTn, before its sweep has begun (R1). -/
def State.released (s : State) (strap : Fin 4) : State :=
  { s with rstAsserted := false, frames := framesOfStrap strap, uninitCount := framesOfStrap strap,
           refreshAt := s.now + 7 }

theorem framesOfStrap_pos (strap : Fin 4) : 0 < framesOfStrap strap := by
  revert strap
  decide

theorem edits_released (s : State) (strap : Fin 4) :
    Edits B (State.released s strap) ((State.released s strap).appendScrub 0 .sweep none) :=
  edits_appendScrub _ _ (.inl (framesOfStrap_pos strap))

/-- What a command can do: edits within its scope, a part reset, the release of RSTn and its sweep, a port
reset. -/
theorem exec_cases {i : Instr} {s t : State} (hB : ∀ d ∈ s.scrubQueue, B.listed d.frame)
    (harray : EndsBurst i → B.array) (htoken : MovesToken i → B.token)
    (hoffline : ∀ p, i = .detach p → B.offline p) (h : exec i s = .next t) :
    Edits B s t ∨ i = .partReset ∨
    (∃ strap, i = .rstnRelease strap ∧ s.rstAsserted = true ∧ Edits B (State.released s strap) t) ∨
    (∃ p, i = .portReset p ∧ s.rstAsserted = false ∧ t = s.depart p) := by
  by_cases hpart : i = .partReset
  · exact .inr (.inl hpart)
  by_cases hrelease : ∃ strap, i = .rstnRelease strap
  · obtain ⟨strap, rfl⟩ := hrelease
    simp only [exec, execRstnRelease] at h
    split at h
    next hrst =>
      cases h
      exact .inr (.inr (.inl ⟨strap, rfl, hrst, edits_released s strap⟩))
    next =>
      cases h
      exact .inl .refl
  by_cases hreset : ∃ p, i = .portReset p
  · obtain ⟨p, rfl⟩ := hreset
    simp only [exec, execPortReset] at h
    split at h
    next =>
      cases h
      exact .inl (edits_setUnit_same rfl rfl rfl rfl rfl rfl)
    next hrst =>
      cases h
      exact .inr (.inr (.inr ⟨p, rfl, by simpa using hrst, rfl⟩))
  · obtain ⟨u, hu, edits⟩ := exec_edits i hB hpart (fun strap e => hrelease ⟨strap, e⟩)
      (fun p e => hreset ⟨p, e⟩) harray htoken hoffline
    rw [hu] at h
    cases h
    exact .inl edits

/-- What a step can do: edits, the two resets, the release of RSTn. -/
theorem step_cases {listed : Nat → Prop} {s t : State} (hB : ∀ d ∈ s.scrubQueue, listed d.frame)
    (h : step s = .next t) :
    (∃ now pending, Edits { Scope.any with listed := listed }
      { s with now := now, pending := pending } t) ∨
    (∃ rest, exec .partReset { s with pending := rest } = .next t) ∨
    (∃ strap rest, s.rstAsserted = true ∧
      Edits { Scope.any with listed := listed } (State.released { s with pending := rest } strap) t) ∨
    (∃ p rest, s.rstAsserted = false ∧ t = ({ s with pending := rest } : State).depart p) := by
  unfold step at h
  split at h
  · cases h
    unfold State.tick
    dsimp only
    split
    · exact .inl ⟨s.now + 1, s.pending, .refl⟩
    · exact .inl ⟨s.now + 1, _, edits_rest rfl⟩
  next i rest _ =>
    rcases exec_cases (B := { Scope.any with listed := listed }) (s := { s with pending := rest }) hB
      (fun _ => trivial) (fun _ => trivial) (fun _ _ => trivial) h with
      run | rfl | ⟨strap, rfl, hrst, run⟩ | ⟨p, rfl, hrst, rfl⟩
    · exact .inl ⟨s.now, rest, run⟩
    · exact .inr (.inl ⟨rest, h⟩)
    · exact .inr (.inr (.inl ⟨strap, rest, hrst, run⟩))
    · exact .inr (.inr (.inr ⟨p, rest, hrst, rfl⟩))

end Commands

/-! ### Canonical forms -/

theorem edit_keeps_canonical {B : Scope} {s t : State} (h : Edit B s t) (hs : Canonical s) :
    Canonical t := by
  obtain ⟨hmem, hdir, hmaps⟩ := hs
  cases h with
  | entry f e _ _ =>
    refine ⟨hmem, directory_wf_putDirectory f e hdir, fun p => ?_⟩
    rw [putEntry_unit]
    exact hmaps p
  | post p r =>
    refine ⟨hmem, hdir, fun q => ?_⟩
    rw [post_unit]
    split
    next hq =>
      rw [postUnit_touches]
      exact hmaps p
    next => exact hmaps q
  | unit p u h _ =>
    refine ⟨hmem, hdir, fun q => ?_⟩
    rw [setUnit_unit]
    split
    · exact ⟨h.rising .c0 (hmaps p).1, h.rising .c1 (hmaps p).2⟩
    · exact hmaps q
  | memory m h _ => exact ⟨h hmem, hdir, hmaps⟩
  | params => exact ⟨hmem, hdir, hmaps⟩
  | token => exact ⟨hmem, hdir, hmaps⟩
  | rest _ h =>
    rw [h]
    exact ⟨hmem, hdir, hmaps⟩

theorem resetUnit_unit (s : State) (p q : Port) :
    (s.resetUnit p).unit q = if q = p then PortUnit.reset true else s.unit q := setUnit_unit _ _ _ _

/-- Part reset leaves every port unit at its reset values (R162). -/
theorem afterPartReset_unit (frames now : Nat) (m : Memory) (prst : PerPort Bool) (draws : Nat)
    (pending : List Instr) (p : Port) :
    (State.afterPartReset frames now m prst draws pending).unit p = PortUnit.reset (prst.get p) := by
  cases p <;> rfl

theorem memory_wf_abandoned {s : State} (h : Memory.wf s.memory) : Memory.wf s.abandonedMemory := by
  unfold State.abandonedMemory
  split
  · exact memory_wf_performPlaces _ _ _ h
  · exact memory_wf_scrubPlaces _ _ h
  · exact h

/-- Settles O6: each edit keeps the forms, and so do the two resets. -/
theorem stepKeepsCanonicalForms : Obligations.StepKeepsCanonicalForms := by
  intro s t hs h
  have keeps := fun {u v : State} (run : Edits Scope.any u v) (hu : Canonical u) =>
    run.keeps (fun _ _ edit => edit_keeps_canonical edit) hu
  rcases step_cases (listed := fun _ => True) (fun _ _ => trivial) h with
    ⟨now, pending, run⟩ | ⟨rest, hpart⟩ |
    ⟨strap, rest, _, run⟩ | ⟨p, rest, _, rfl⟩
  · exact keeps run hs
  · cases hpart
    refine ⟨memory_wf_abandoned (s := { s with pending := rest }) hs.1, ⟨List.Pairwise.nil, nofun⟩,
      fun p => ?_⟩
    rw [afterPartReset_unit]
    exact ⟨List.Pairwise.nil, List.Pairwise.nil⟩
  · exact keeps run hs
  · obtain ⟨hmem, hdir, hmaps⟩ := keeps (edits_departed { s with pending := rest } p trivial) hs
    refine ⟨hmem, hdir, fun q => ?_⟩
    rw [depart_eq, resetUnit_unit]
    split
    · exact ⟨List.Pairwise.nil, List.Pairwise.nil⟩
    · exact hmaps q

/-! ### Queue bounds -/

/-- A port unit's queue is bounded, and empty with OVERRUN clear while the port is OFFLINE (R165, R178). -/
def UnitBounded (u : PortUnit) : Prop :=
  u.events.length ≤ 16 ∧ (u.online = false → u.events = [] ∧ u.overrun = false)

theorem unitBounded_postUnit {u : PortUnit} (r : EventRecord) (h : UnitBounded u) :
    UnitBounded (postUnit u r) := by
  rcases postUnit_cases u r with ⟨_, e⟩ | ⟨honline, hlt, e⟩ | ⟨honline, _, e⟩
  · rwa [e]
  · rw [e]
    refine ⟨?_, fun offline => absurd honline (by simp_all)⟩
    simp only [List.length_append, List.length_cons, List.length_nil]
    omega
  · rw [e]
    exact ⟨h.1, fun offline => absurd honline (by simp_all)⟩

theorem unitBounded_unitEdit {n : Nat} {u v : PortUnit} (edit : UnitEdit n u v) (h : UnitBounded u) :
    UnitBounded v := by
  refine ⟨edit.events.length_le.trans h.1, fun offline => ?_⟩
  rcases edit.online with online | same | empty
  · simp [online] at offline
  · obtain ⟨hevents, hoverrun⟩ := h.2 (same ▸ offline)
    refine ⟨List.suffix_nil.1 (hevents ▸ edit.events), ?_⟩
    by_contra hv
    have := edit.overrun (by simpa using hv)
    simp [hoverrun] at this
  · exact empty

theorem edit_keeps_queuesBounded {B : Scope} {s t : State} (h : Edit B s t)
    (hs : QueuesBounded s) : QueuesBounded t := by
  cases h with
  | entry f e _ _ =>
    intro p
    rw [putEntry_unit]
    exact hs p
  | post p r =>
    intro q
    rw [post_unit]
    split
    · exact unitBounded_postUnit r (hs p)
    · exact hs q
  | unit p u h _ =>
    intro q
    rw [setUnit_unit]
    split
    · exact unitBounded_unitEdit h (hs p)
    · exact hs q
  | memory => exact hs
  | params => exact hs
  | token => exact hs
  | rest _ h =>
    rw [h]
    exact hs

theorem unitBounded_reset (prst : Bool) : UnitBounded (PortUnit.reset prst) :=
  ⟨Nat.zero_le 16, fun _ => ⟨rfl, rfl⟩⟩

/-- The first half of O7: a step keeps the queue bounds. -/
theorem step_keeps_queuesBounded {s t : State} (hs : QueuesBounded s) (h : step s = .next t) :
    QueuesBounded t := by
  have keeps := fun {u v : State} (run : Edits Scope.any u v) (hu : QueuesBounded u) =>
    run.keeps (fun _ _ edit => edit_keeps_queuesBounded edit) hu
  rcases step_cases (listed := fun _ => True) (fun _ _ => trivial) h with
    ⟨now, pending, run⟩ | ⟨rest, hpart⟩ |
    ⟨strap, rest, _, run⟩ | ⟨p, rest, _, rfl⟩
  · exact keeps run hs
  · cases hpart
    intro p
    rw [afterPartReset_unit]
    exact unitBounded_reset _
  · exact keeps run hs
  · intro q
    rw [depart_eq, resetUnit_unit]
    split
    · exact unitBounded_reset true
    · exact keeps (edits_departed { s with pending := rest } p trivial) hs q

/-! ### The sweep-complete status, the parameters and the maps -/

/-- The sweep-complete status is raised in the change that brings the UNINITIALIZED count to 0 (R135). -/
theorem putEntry_keeps_sweepStatus {s : State} (f : Nat) {e : Entry}
    (used : e.state = .uninitialized → (s.entry f).state = .uninitialized) (hs : SweepStatusRight s) :
    SweepStatusRight (s.putEntry f e) := by
  obtain ⟨hframes, hsweep⟩ := hs
  refine ⟨hframes, ?_⟩
  by_cases hold : (s.entry f).state = .uninitialized
  · by_cases hnew : e.state = .uninitialized
    · simpa [State.putEntry, hold, hnew, countChange] using hsweep
    · have raised : (s.putEntry f e).sweepComplete = (s.sweepComplete || s.uninitCount - 1 == 0) := by
        have : (e.state == .uninitialized) = false := by simpa using hnew
        simp [State.putEntry, hold, this, countChange, bne]
      have count : (s.putEntry f e).uninitCount = s.uninitCount - 1 := by
        have : (e.state == .uninitialized) = false := by simpa using hnew
        simp [State.putEntry, hold, this, countChange]
      rw [raised, count, Bool.or_eq_true, beq_iff_eq, hsweep]
      omega
  · have hnew : e.state ≠ .uninitialized := fun k => hold (used k)
    have h1 : ((s.entry f).state == .uninitialized) = false := by simpa using hold
    have h2 : (e.state == .uninitialized) = false := by simpa using hnew
    simpa [State.putEntry, h1, h2, countChange] using hsweep

theorem edit_keeps_sweepStatus {B : Scope} {s t : State} (h : Edit B s t)
    (hs : SweepStatusRight s) : SweepStatusRight t := by
  cases h with
  | entry f e _ used => exact putEntry_keeps_sweepStatus f used hs
  | post => exact hs
  | unit => exact hs
  | memory => exact hs
  | params => exact hs
  | token => exact hs
  | rest _ h =>
    rw [h]
    exact hs

theorem mapOf_of_maps {u v : PortUnit} (h0 : v.map0 = u.map0) (h1 : v.map1 = u.map1) (c : Context) :
    v.mapOf c = u.mapOf c := by
  cases c <;> assumption

@[simp] theorem putEntry_mapOf (s : State) (f : Nat) (e : Entry) (p : Port) (c : Context) :
    ((s.putEntry f e).unit p).mapOf c = (s.unit p).mapOf c := by
  rw [putEntry_unit]
  exact mapOf_of_maps rfl rfl c

@[simp] theorem post_mapOf (s : State) (p q : Port) (r : EventRecord) (c : Context) :
    ((s.post p r).unit q).mapOf c = (s.unit q).mapOf c := by
  rw [post_unit]
  split
  next h =>
    rw [h, postUnit_touches]
    exact mapOf_of_maps rfl rfl c
  next => rfl

theorem edit_keeps_ranges {B : Scope} {s t : State} (h : Edit B s t)
    (hs : ParametersInRange s ∧ MapsNameFrames s) : ParametersInRange t ∧ MapsNameFrames t := by
  obtain ⟨hparams, hmaps⟩ := hs
  cases h with
  | entry f e _ _ =>
    exact ⟨hparams, fun p c m hm => hmaps p c m (putEntry_mapOf s f e p c ▸ hm)⟩
  | post p r =>
    exact ⟨hparams, fun q c m hm => hmaps q c m (post_mapOf s p q r c ▸ hm)⟩
  | unit p u h _ =>
    refine ⟨hparams, fun q c m hm => ?_⟩
    rw [setUnit_unit] at hm
    split at hm
    · rcases h.names c m hm with lt | ⟨m', hm', same⟩
      · exact lt
      · exact same ▸ hmaps p c m' hm'
    · exact hmaps q c m hm
  | memory => exact ⟨hparams, hmaps⟩
  | params _ _ h => exact ⟨h hparams, hmaps⟩
  | token => exact ⟨hparams, hmaps⟩
  | rest _ h =>
    rw [h]
    exact ⟨hparams, hmaps⟩

/-! ### While RSTn is asserted (R4, R164) -/

/-- While RSTn is asserted and the blocks stand at their reset values, a command other than a part reset or
the release of RSTn moves a PRSTn pin or nothing. -/
theorem exec_while_reset {i : Instr} {s t : State} (hrst : s.rstAsserted = true) (hold : ResetHolds s)
    (hpart : i ≠ .partReset) (hrelease : ∀ strap, i ≠ .rstnRelease strap) (h : exec i s = .next t) :
    t = s ∨ ∃ p b, t = s.setUnit p { s.unit p with prst := b } := by
  obtain ⟨hdir, _, _, _, _, hport, _, htoken, _⟩ := hold hrst
  have unserved : ∀ p, s.busServed p = false := fun p => by simp [State.busServed, hrst]
  have bus : ∀ p, portOf i = some p → i ≠ .portReset p → i ≠ .prstnRelease p → t = s := by
    intro p hp h1 h2
    rw [exec_unserved hp h1 h2 (unserved p)] at h
    cases h
    rfl
  cases i with
  | partReset => exact absurd rfl hpart
  | rstnRelease strap => exact absurd rfl (hrelease strap)
  | portReset p =>
    simp only [exec, execPortReset, hrst, if_true] at h
    cases h
    exact .inr ⟨p, true, rfl⟩
  | prstnRelease p =>
    cases h
    exact .inr ⟨p, false, rfl⟩
  | windowRequestComplete upsets =>
    simp only [exec, execWindowRequestComplete, hport] at h
    cases h
    exact .inl rfl
  | uncorrectableError upsets =>
    simp only [exec, execUncorrectableError, hport] at h
    cases h
    exact .inl rfl
  | scrubBurstComplete =>
    simp only [exec, execScrubBurstComplete, hport] at h
    cases h
    exact .inl rfl
  | refreshTimerExpiry =>
    simp only [exec, execRefreshTimerExpiry, hrst] at h
    cases h
    exact .inl rfl
  | refreshComplete =>
    simp only [exec, execRefreshComplete, hport] at h
    cases h
    exact .inl rfl
  | recallDeadline f =>
    have inactive : s.recallOf f = none := by
      rw [State.recallOf, entry_of_dir_nil hdir]
      rfl
    simp only [exec, execRecallDeadline, inactive] at h
    cases h
    exact .inl rfl
  | authorityLeaseExpiry =>
    simp only [exec, execAuthorityLeaseExpiry, htoken] at h
    cases h
    exact .inl rfl
  | _ => exact .inl (bus _ rfl nofun nofun)

/-- The step's outcomes while RSTn is asserted: time or a pin moves, a part reset, the release. -/
theorem step_while_reset {s t : State} (hrst : s.rstAsserted = true) (hold : ResetHolds s)
    (h : step s = .next t) :
    (∃ now pending, t = { s with now := now, pending := pending }) ∨
    (∃ pending p b, t = State.setUnit { s with pending := pending } p { s.unit p with prst := b }) ∨
    (∃ rest, exec .partReset { s with pending := rest } = .next t) ∨
    (∃ strap rest, t = (State.released { s with pending := rest } strap).appendScrub 0 .sweep none) := by
  unfold step at h
  split at h
  · cases h
    exact .inl ⟨s.now + 1, s.pending, by rw [State.tick, if_pos (by exact hrst)]⟩
  next i rest _ =>
    by_cases hpart : i = .partReset
    · exact .inr (.inr (.inl ⟨rest, hpart ▸ h⟩))
    by_cases hrelease : ∃ strap, i = .rstnRelease strap
    · obtain ⟨strap, rfl⟩ := hrelease
      simp only [exec, execRstnRelease, hrst, if_true] at h
      cases h
      exact .inr (.inr (.inr ⟨strap, rest, rfl⟩))
    · rcases exec_while_reset (s := { s with pending := rest }) hrst hold hpart
        (fun strap e => hrelease ⟨strap, e⟩) h with rfl | ⟨p, b, rfl⟩
      · exact .inl ⟨s.now, rest, rfl⟩
      · exact .inr (.inl ⟨rest, p, b, rfl⟩)

theorem edit_rstAsserted {B : Scope} {s t : State} (h : Edit B s t) :
    t.rstAsserted = s.rstAsserted := by
  cases h with
  | rest _ h => rw [h]
  | _ => rfl

theorem edits_rstAsserted {B : Scope} {s t : State} (run : Edits B s t) :
    t.rstAsserted = s.rstAsserted :=
  run.keeps (I := fun u => u.rstAsserted = s.rstAsserted)
    (fun _ _ edit hu => (edit_rstAsserted edit).trans hu) rfl

theorem resetHolds_of_released {t : State} (h : t.rstAsserted = false) : ResetHolds t :=
  fun hrst => absurd hrst (by simp [h])

theorem resetHolds_partReset {s t : State} (h : exec .partReset s = .next t) : ResetHolds t := by
  cases h
  refine fun _ => ⟨rfl, rfl, rfl, rfl, rfl, rfl, rfl, rfl, fun p => ?_⟩
  rw [afterPartReset_unit]
  exact ⟨rfl, rfl, rfl⟩

/-- Every step keeps the blocks at their reset values while RSTn is asserted (R4). -/
theorem step_keeps_resetHolds {s t : State} (hs : ResetHolds s) (h : step s = .next t) :
    ResetHolds t := by
  cases hrst : s.rstAsserted with
  | true =>
    rcases step_while_reset hrst hs h with ⟨now, pending, rfl⟩ | ⟨pending, p, b, rfl⟩ | ⟨rest, hpart⟩ |
      ⟨strap, rest, rfl⟩
    · exact hs
    · intro _
      obtain ⟨hdir, hqueue, hsweep, hrecalls, hdeferred, hport, hscrub, htoken, hunits⟩ := hs hrst
      refine ⟨hdir, hqueue, hsweep, hrecalls, hdeferred, hport, hscrub, htoken, fun q => ?_⟩
      rw [setUnit_unit]
      split
      · exact hunits p
      · exact hunits q
    · exact resetHolds_partReset hpart
    · exact resetHolds_of_released (edits_rstAsserted (B := Scope.any) (edits_released _ strap))
  | false =>
    rcases step_cases (listed := fun _ => True) (fun _ _ => trivial) h with
    ⟨now, pending, run⟩ | ⟨rest, hpart⟩ |
      ⟨strap, rest, released, _⟩ | ⟨p, rest, _, rfl⟩
    · exact resetHolds_of_released ((edits_rstAsserted run).trans hrst)
    · exact resetHolds_partReset hpart
    · exact absurd released (by simp [hrst])
    · have run := edits_departed (B := Scope.any) { s with pending := rest } p trivial
      exact resetHolds_of_released ((edits_rstAsserted run).trans hrst)

/-- Settles O9: an entry's replacement raises the status with the count's fall to 0. -/
theorem stepKeepsSweepStatus : Obligations.StepKeepsSweepStatus := by
  rintro s t ⟨hs, hreset⟩ h
  refine ⟨?_, step_keeps_resetHolds hreset h⟩
  have keeps := fun {u v : State} (run : Edits Scope.any u v) (hu : SweepStatusRight u) =>
    run.keeps (fun _ _ edit => edit_keeps_sweepStatus edit) hu
  rcases step_cases (listed := fun _ => True) (fun _ _ => trivial) h with
    ⟨now, pending, run⟩ | ⟨rest, hpart⟩ |
    ⟨strap, rest, hrst, run⟩ | ⟨p, rest, _, rfl⟩
  · exact keeps run hs
  · cases hpart
    exact ⟨hs.1, nofun, fun h0 => absurd h0 (Nat.ne_of_gt hs.1)⟩
  · obtain ⟨_, _, hsweep, _⟩ := hreset hrst
    have hpos := framesOfStrap_pos strap
    refine keeps run ⟨hpos, fun on => ?_, fun h0 => absurd h0 (Nat.ne_of_gt hpos)⟩
    exact absurd (hsweep.symm.trans on) nofun
  · have kept := keeps (edits_departed { s with pending := rest } p trivial) hs
    exact kept

/-- Settles O14: each edit keeps the ranges; the resets restore them, and the release finds no entry valid. -/
theorem stepKeepsRanges : Obligations.StepKeepsRanges := by
  rintro s t ⟨hparams, hreset, hmaps⟩ h
  have keeps := fun {u v : State} (run : Edits Scope.any u v)
      (hu : ParametersInRange u ∧ MapsNameFrames u) =>
    run.keeps (fun _ _ edit => edit_keeps_ranges edit) hu
  suffices ParametersInRange t ∧ MapsNameFrames t from
    ⟨this.1, step_keeps_resetHolds hreset h, this.2⟩
  rcases step_cases (listed := fun _ => True) (fun _ _ => trivial) h with
    ⟨now, pending, run⟩ | ⟨rest, hpart⟩ |
    ⟨strap, rest, hrst, run⟩ | ⟨p, rest, _, rfl⟩
  · exact keeps run ⟨hparams, hmaps⟩
  · cases hpart
    have defaults : (1 ≤ 1000 ∧ 1000 ≤ 65535) ∧ 1 ≤ 250 ∧ 250 ≤ 65535 := by decide
    refine ⟨defaults, fun p c m hm => ?_⟩
    rw [afterPartReset_unit] at hm
    cases c <;> cases hm
  · refine keeps run ⟨hparams, fun p c m hm => ?_⟩
    obtain ⟨_, _, _, _, _, _, _, _, hunits⟩ := hreset hrst
    obtain ⟨_, map0, map1⟩ := hunits p
    have empty : (s.unit p).mapOf c = [] := by cases c <;> assumption
    exact absurd (empty ▸ hm : m ∈ []) nofun
  · obtain ⟨hparams', hmaps'⟩ := keeps (edits_departed { s with pending := rest } p trivial) ⟨hparams, hmaps⟩
    refine ⟨hparams', fun q c m hm => ?_⟩
    rw [depart_eq, resetUnit_unit] at hm
    split at hm
    · cases c <;> cases hm
    · exact hmaps' q c m hm

end Sys2Proof.Proofs
end

section
/-! PROOFS. What every command keeps: the queue and the time base, the array but for a burst's end, the token but
for the commands about it. -/

namespace Sys2Proof.Proofs
set_option Elab.async false

open Sys2Proof.Machine Sys2Proof.Safety Sys2Proof.Laws

/-! ### The queue and the time base -/

theorem edit_pending_now {B : Scope} {s t : State} (h : Edit B s t) :
    t.pending = s.pending ∧ t.now = s.now := by
  cases h with
  | rest _ h =>
    rw [h]
    exact ⟨rfl, rfl⟩
  | _ => exact ⟨rfl, rfl⟩

theorem edits_pending_now {B : Scope} {s t : State} (run : Edits B s t) :
    t.pending = s.pending ∧ t.now = s.now :=
  run.keeps (I := fun u => u.pending = s.pending ∧ u.now = s.now)
    (fun _ _ edit hu => ⟨(edit_pending_now edit).1.trans hu.1, (edit_pending_now edit).2.trans hu.2⟩)
    ⟨rfl, rfl⟩

/-- Every command answers a next state. -/
theorem exec_next (i : Instr) (s : State) : ∃ t, exec i s = .next t := by
  by_cases hpart : i = .partReset
  · subst hpart
    exact ⟨_, rfl⟩
  by_cases hrelease : ∃ strap, i = .rstnRelease strap
  · obtain ⟨strap, rfl⟩ := hrelease
    simp only [exec, execRstnRelease]
    split <;> exact ⟨_, rfl⟩
  by_cases hreset : ∃ p, i = .portReset p
  · obtain ⟨p, rfl⟩ := hreset
    simp only [exec, execPortReset]
    split <;> exact ⟨_, rfl⟩
  · obtain ⟨t, h, _⟩ := exec_edits (B := Scope.any) i (s := s) (fun _ _ => trivial) hpart
      (fun strap e => hrelease ⟨strap, e⟩) (fun p e => hreset ⟨p, e⟩) (fun _ => trivial)
      (fun _ => trivial) (fun _ _ => trivial)
    exact ⟨t, h⟩

/-- Settles O3: edits change neither the queue nor the time base. -/
theorem everyCommandAnswersNext : Obligations.EveryCommandAnswersNext := by
  intro i s
  obtain ⟨t, h⟩ := exec_next i s
  refine ⟨t, h, ?_⟩
  rcases exec_cases (B := Scope.any) (fun _ _ => trivial) (fun _ => trivial) (fun _ => trivial)
    (fun _ _ => trivial) h with run | rfl | ⟨strap, rfl, _, run⟩ | ⟨p, rfl, _, rfl⟩
  · exact edits_pending_now run
  · cases h
    exact ⟨rfl, rfl⟩
  · have kept := edits_pending_now run
    exact kept
  · have kept := edits_pending_now (edits_departed (B := Scope.any) s p trivial)
    exact kept

/-! ### The array -/

theorem edits_memory {B : Scope} {s t : State} (run : Edits B s t) (may : ¬ B.array) :
    t.memory = s.memory := by
  refine run.keeps (I := fun u => u.memory = s.memory) (fun u v edit hu => ?_) rfl
  cases edit with
  | memory _ _ h => exact absurd h may
  | rest _ h => rw [h, ← hu]
  | _ => exact hu

/-- The scope of a run that leaves the array alone. -/
def Scope.noArray : Scope := { Scope.any with array := False }

theorem depart_memory (s : State) (p : Port) : (s.depart p).memory = s.memory := by
  have kept := edits_memory (B := Scope.noArray) (edits_departed s p trivial) id
  exact kept

/-- Settles O15: the rows that end a burst and the part reset alone have the array in their scope. -/
theorem arrayChangesOnlyByBursts : Obligations.ArrayChangesOnlyByBursts := by
  intro i s t h changed
  by_contra other
  have harray : ¬ EndsBurst i := fun k => other (by
    rcases k with k | k | k
    · exact .inl k
    · exact .inr (.inl k)
    · exact .inr (.inr (.inl k)))
  rcases exec_cases (B := Scope.noArray) (fun _ _ => trivial)
    (fun k => harray k) (fun _ => trivial) (fun _ _ => trivial) h with
    run | rfl | ⟨strap, rfl, _, run⟩ | ⟨p, rfl, _, rfl⟩
  · exact changed (edits_memory (B := Scope.noArray) run id)
  · exact other (.inr (.inr (.inr rfl)))
  · have kept := edits_memory (B := Scope.noArray) run id
    exact changed kept
  · exact changed (depart_memory s p)

/-! ### The token -/

theorem edits_token {B : Scope} {s t : State} (run : Edits B s t) (may : ¬ B.token) :
    t.token = s.token := by
  refine run.keeps (I := fun u => u.token = s.token) (fun u v edit hu => ?_) rfl
  cases edit with
  | token _ h => exact absurd h may
  | rest _ h => rw [h, ← hu]
  | _ => exact hu

theorem freeTokenOf_token (s : State) (p : Port) :
    (s.freeTokenOf p).token = if s.token = some p then none else s.token := by
  unfold State.freeTokenOf
  split <;> rfl

/-- The scope of a run that leaves the token alone. -/
def Scope.noToken : Scope := { Scope.any with token := False }

/-- A port reset frees the token of its port alone (R145). -/
theorem depart_token (s : State) (p : Port) :
    (s.depart p).token = if s.token = some p then none else s.token := by
  let u := (s.withdrawAll p).giveUpAll p
  have before : u.token = s.token :=
    edits_token (B := Scope.noToken) ((edits_withdrawAll s p).trans (edits_giveUpAll _ p)) id
  have after : (((u.freeTokenOf p).dropNotify p).discardAnswer p).token = (u.freeTokenOf p).token :=
    edits_token (B := Scope.noToken)
      ((edits_dropNotify (u.freeTokenOf p) p).trans (edits_discardAnswer _ p)) id
  have reset : (s.depart p).token = (((u.freeTokenOf p).dropNotify p).discardAnswer p).token := rfl
  rw [reset, after, freeTokenOf_token, before]

/-- A DETACH's departure frees the token of its port alone (R168). -/
theorem detachPort_token (s : State) (p : Port) :
    (s.detachPort p).token = if s.token = some p then none else s.token := by
  have before : (s.withdrawAll p).token = s.token :=
    edits_token (B := Scope.noToken) (edits_withdrawAll s p) id
  have after : (s.detachPort p).token = ((s.withdrawAll p).freeTokenOf p).token := by
    simp only [State.detachPort, State.clearMaps, State.dropNotify, setUnit_token]
  rw [after, freeTokenOf_token, before]

/-- What a command does with the token is what its owner does, on a part with the same token. -/
theorem issue_token {α : Type} {s : State} {p : Port} {code : Word} {off : Bool} {args : Option α}
    {owner : α → State → State} {x : Option Port}
    (h : (s.issue p code off args owner).token = x) :
    x = s.token ∨ (s.busServed p = true ∧ ((s.unit p).online = true ∨ off = true) ∧
      ∃ a, x = (owner a (answered s p code (s.unit p).results)).token) := by
  subst h
  unfold State.issue
  split
  next served =>
    dsimp only
    split
    · exact .inl rfl
    next honline =>
      split
      · exact .inl rfl
      next a =>
        refine .inr ⟨served, ?_, a, rfl⟩
        cases off <;> simp_all
  next => exact .inl rfl

/-- What a command does with the token: it keeps it, ACQUIRE_AUTHORITY takes it for an ONLINE port while it is
free, its holder's RELEASE_AUTHORITY and departure, the lease's expiry and part reset free it. -/
theorem exec_token {i : Instr} {s t : State} (h : exec i s = .next t) :
    t.token = s.token ∨
    (∃ p, i = .acquireAuthority p ∧ s.token = none ∧ t.token = some p ∧ (s.unit p).online = true) ∨
    (t.token = none ∧ (i = .authorityLeaseExpiry ∨ i = .partReset ∨ ∃ p, s.token = some p ∧
      (i = .releaseAuthority p ∨ i = .detach p ∨ i = .portReset p))) := by
  by_cases htoken : MovesToken i
  · rcases htoken with ⟨p, rfl⟩ | ⟨p, rfl⟩ | ⟨p, rfl⟩ | rfl
    · cases h
      rcases issue_token (owner := ownAcquireAuthority p) rfl with same | ⟨_, honline, a, owned⟩
      · exact .inl same
      · rcases htoken : s.token with _ | q
        · have taken : (answered s p 0x30 (s.unit p).results).token = none := htoken
          refine .inr (.inl ⟨p, rfl, rfl, owned.trans ?_, by simpa using honline⟩)
          simp only [ownAcquireAuthority, taken]
          rfl
        · have taken : (answered s p 0x30 (s.unit p).results).token = some q := htoken
          refine .inl (owned.trans ?_)
          simp only [ownAcquireAuthority, taken]
          split <;> exact taken
    · cases h
      rcases issue_token (owner := fun (_ : Unit) (t : State) => if t.token = some p then
          ({ t with token := none } : State).reply p .ok 0 0 0 else t.refuse p .denied) rfl with
        same | ⟨_, _, a, owned⟩
      · exact .inl same
      · by_cases own : s.token = some p
        · exact .inr (.inr ⟨owned.trans (by rw [if_pos (by exact own)]; rfl),
            .inr (.inr ⟨p, own, .inl rfl⟩)⟩)
        · exact .inl (owned.trans (by rw [if_neg (by exact own)]; rfl))
    · cases h
      rcases issue_token (owner := ownDetach p) rfl with same | ⟨_, _, a, owned⟩
      · exact .inl same
      · let u := answered s p 0x02 (s.unit p).results
        simp only [ownDetach] at owned
        split at owned
        · exact .inl owned
        · have freed : (s.issue p 0x02 false (some ()) (ownDetach p)).token =
              if s.token = some p then none else s.token := owned.trans (detachPort_token u p)
          by_cases own : s.token = some p
          · rw [if_pos own] at freed
            exact .inr (.inr ⟨freed, .inr (.inr ⟨p, own, .inr (.inl rfl)⟩)⟩)
          · rw [if_neg own] at freed
            exact .inl freed
    · simp only [exec, execAuthorityLeaseExpiry] at h
      split at h
      · cases h
        exact .inl rfl
      · split at h
        · cases h
          exact .inr (.inr ⟨rfl, .inl rfl⟩)
        · cases h
          exact .inl rfl
  · rcases exec_cases (B := Scope.noToken) (fun _ _ => trivial) (fun _ => trivial)
      (fun k => htoken k) (fun _ _ => trivial) h with
      run | rfl | ⟨strap, rfl, _, run⟩ | ⟨p, rfl, _, rfl⟩
    · exact .inl (edits_token (B := Scope.noToken) run id)
    · cases h
      exact .inr (.inr ⟨rfl, .inr (.inl rfl)⟩)
    · have kept := edits_token (B := Scope.noToken) run id
      exact .inl kept
    · by_cases own : s.token = some p
      · exact .inr (.inr ⟨(depart_token s p).trans (if_pos own),
          .inr (.inr ⟨p, own, .inr (.inr rfl)⟩)⟩)
      · exact .inl ((depart_token s p).trans (if_neg own))

/-- An ONLINE port stays so, but in the scope's departures. -/
theorem edits_online {B : Scope} {s t : State} {p : Port} (run : Edits B s t) (may : ¬ B.offline p)
    (h : (s.unit p).online = true) : (t.unit p).online = true := by
  refine run.keeps (I := fun u => (u.unit p).online = true) (fun u v edit hu => ?_) h
  cases edit with
  | entry f e =>
    rw [putEntry_unit]
    exact hu
  | post q r =>
    rw [post_unit]
    split
    next hq =>
      rw [postUnit_touches]
      exact hq ▸ hu
    next => exact hu
  | unit q w _ stays =>
    rw [setUnit_unit]
    split
    next hq => exact (stays (hq ▸ hu)).resolve_right (hq ▸ may)
    next => exact hu
  | rest _ h =>
    rw [h]
    exact hu
  | _ => exact hu

/-- A port leaves ONLINE by its own DETACH, its port reset and a part reset alone (R166, R168, R176). -/
theorem exec_online {i : Instr} {s t : State} {p : Port} (h : exec i s = .next t)
    (honline : (s.unit p).online = true) :
    (t.unit p).online = true ∨ i = .detach p ∨ i = .portReset p ∨ i = .partReset := by
  by_cases hdetach : i = .detach p
  · exact .inr (.inl hdetach)
  rcases exec_cases (B := { Scope.any with offline := fun q => q ≠ p }) (fun _ _ => trivial)
    (fun _ => trivial) (fun _ => trivial)
    (fun q hq (e : q = p) => hdetach (e ▸ hq)) h with
    run | rfl | ⟨strap, rfl, _, run⟩ | ⟨q, rfl, _, rfl⟩
  · exact .inl (edits_online run (not_not_intro rfl) honline)
  · exact .inr (.inr (.inr rfl))
  · exact .inl (edits_online run (not_not_intro rfl) honline)
  · by_cases hq : q = p
    · exact .inr (.inr (.inl (hq ▸ rfl)))
    · left
      rw [depart_eq, resetUnit_unit, if_neg (Ne.symm hq)]
      exact edits_online (B := { Scope.any with offline := fun q => q ≠ p })
        (edits_departed s q trivial) (not_not_intro rfl) honline

/-- A DETACH or port reset of the token's holder frees it with the port's departure. -/
theorem exec_tokenHolderOnline {i : Instr} {s t : State} (hs : TokenHolderOnline s)
    (h : exec i s = .next t) : TokenHolderOnline t := by
  intro p hp
  rcases exec_token h with same | ⟨q, rfl, free, taken, honline⟩ | ⟨freed, _⟩
  · have held : s.token = some p := same ▸ hp
    rcases exec_online h (hs p held) with online | rfl | rfl | rfl
    · exact online
    · cases h
      rw [State.issue] at hp ⊢
      split
      next served =>
        rw [if_pos served] at hp
        simp only [hs p held, Bool.not_true, Bool.false_and, Bool.false_eq_true, if_false] at hp ⊢
        simp only [ownDetach] at hp ⊢
        split
        next =>
          rw [takeCode_eq_answered, reply_answered, answered_online]
          exact hs p held
        next hfree =>
          rw [if_neg hfree] at hp
          have freed := detachPort_token (s.takeCode p 0x02) p
          rw [if_pos (by exact held)] at freed
          exact absurd (freed.symm.trans hp) nofun
      next => exact hs p held
    · simp only [exec, execPortReset] at h
      split at h
      · cases h
        rw [setUnit_unit_same]
        exact hs p held
      · cases h
        rw [depart_token, if_pos held] at hp
        cases hp
    · cases h
      cases hp
  · have : q = p := Option.some.inj (taken.symm.trans hp)
    subst this
    rcases exec_online h honline with online | k | k | k
    · exact online
    all_goals cases k
  · rw [freed] at hp
    cases hp

/-- Settles O16: what each command does with the token, and with the lifecycle of its holder. -/
theorem tokenChangesHands : Obligations.TokenChangesHands := by
  refine ⟨fun i s t p h gained was => ?_, fun i s t p h was freed => ?_, fun s t hs h => ?_⟩
  · rcases exec_token h with same | ⟨q, rfl, free, taken, _⟩ | ⟨none, _⟩
    · exact absurd (same ▸ gained) was
    · rw [taken] at gained
      cases gained
      exact ⟨rfl, free⟩
    · rw [none] at gained
      cases gained
  · rcases exec_token h with same | ⟨q, rfl, free, _⟩ | ⟨_, rfl | rfl | ⟨q, held, row⟩⟩
    · exact absurd (was.symm.trans (same.symm.trans freed)) nofun
    · exact absurd (was.symm.trans free) nofun
    · exact .inr (.inr (.inr (.inl rfl)))
    · exact .inr (.inr (.inr (.inr rfl)))
    · have : q = p := Option.some.inj (held.symm.trans was)
      subst this
      rcases row with rfl | rfl | rfl
      · exact .inl rfl
      · exact .inr (.inl rfl)
      · exact .inr (.inr (.inl rfl))
  · unfold step at h
    split at h
    · cases h
      intro p hp
      unfold State.tick at hp ⊢
      dsimp only at hp ⊢
      split
      next hrst =>
        rw [if_pos hrst] at hp
        exact hs p hp
      next hrst =>
        rw [if_neg hrst] at hp
        exact hs p hp
    next i rest _ => exact exec_tokenHolderOnline (s := { s with pending := rest }) hs h

end Sys2Proof.Proofs
end

section
/-! PROOFS. Who can come to hold a frame: no operation of the directory but a claim, an ASSIGN or a scrub's end
lets in a port that neither held nor waited. What a departure leaves of its port. -/

namespace Sys2Proof.Proofs
set_option Elab.async false

open Sys2Proof.Machine Sys2Proof.Safety Sys2Proof.Laws

/-! ### Waiters -/

theorem waitsIn_iff (q : List WaitRec) (p : Port) : waitsIn q p = true ↔ ∃ w ∈ q, w.port = p := by
  simp [waitsIn]

theorem waitsIn_false_iff (q : List WaitRec) (p : Port) :
    waitsIn q p = false ↔ ∀ w ∈ q, w.port ≠ p := by
  simp [waitsIn]

theorem waitsIn_of_sublist {q r : List WaitRec} {p : Port} (h : q.Sublist r)
    (hp : waitsIn q p = true) : waitsIn r p = true := by
  obtain ⟨w, hw, rfl⟩ := (waitsIn_iff q p).1 hp
  exact (waitsIn_iff r w.port).2 ⟨w, h.subset hw, rfl⟩

theorem waitsIn_head (h : WaitRec) (t : List WaitRec) : waitsIn (h :: t) h.port = true :=
  (waitsIn_iff _ _).2 ⟨h, by simp, rfl⟩

theorem waitsIn_filter_ne (q : List WaitRec) (p : Port) :
    waitsIn (q.filter (fun w => w.port != p)) p = false :=
  (waitsIn_false_iff _ _).2 (fun w hw => by simpa using (List.mem_filter.1 hw).2)

/-! ### No newcomers -/

/-- Who holds a frame afterwards held it or waited on it before, and who waits waited. -/
def NoNewcomer (s t : State) : Prop :=
  ∀ g q, ((t.entry g).holders.get q = true →
      (s.entry g).holders.get q = true ∨ waitsIn (s.entry g).queue q = true) ∧
    (waitsIn (t.entry g).queue q = true → waitsIn (s.entry g).queue q = true)

theorem NoNewcomer.refl (s : State) : NoNewcomer s s := fun _ _ => ⟨.inl, id⟩

theorem NoNewcomer.trans {s t u : State} (h : NoNewcomer s t) (k : NoNewcomer t u) : NoNewcomer s u := by
  intro g q
  obtain ⟨hh, hw⟩ := h g q
  obtain ⟨kh, kw⟩ := k g q
  exact ⟨fun held => (kh held).elim hh (fun waits => .inr (hw waits)), fun waits => hw (kw waits)⟩

theorem NoNewcomer.of_entry {s t : State} (h : ∀ g, t.entry g = s.entry g) : NoNewcomer s t :=
  fun g _ => by rw [h g]; exact ⟨.inl, id⟩

theorem NoNewcomer.of_recallField {s t : State} (h : ∀ g, RecallFieldChange (s.entry g) (t.entry g)) :
    NoNewcomer s t := fun g q => by
  rw [h g]
  exact ⟨.inl, id⟩

theorem NoNewcomer.of_putEntry {s : State} {f : Nat} {e : Entry}
    (holders : ∀ q, e.holders.get q = true → (s.entry f).holders.get q = true)
    (queue : e.queue.Sublist (s.entry f).queue) : NoNewcomer s (s.putEntry f e) := by
  intro g q
  rw [entry_putEntry]
  split
  next hg =>
    subst hg
    exact ⟨fun held => .inl (holders q held), waitsIn_of_sublist queue⟩
  next => exact ⟨.inl, id⟩

/-- A port that neither holds nor waits on a frame. -/
def Absent (s : State) (f : Nat) (p : Port) : Prop :=
  (s.entry f).holders.get p = false ∧ waitsIn (s.entry f).queue p = false

theorem NoNewcomer.notWaiting {s t : State} (h : NoNewcomer s t) {f : Nat} {p : Port}
    (hs : waitsIn (s.entry f).queue p = false) : waitsIn (t.entry f).queue p = false := by
  by_contra k
  have := (h f p).2 (by simpa using k)
  simp [hs] at this

theorem NoNewcomer.absent {s t : State} (h : NoNewcomer s t) {f : Nat} {p : Port} (hs : Absent s f p) :
    Absent t f p := by
  refine ⟨?_, h.notWaiting hs.2⟩
  by_contra k
  rcases (h f p).1 (by simpa using k) with held | waits
  · simp [hs.1] at held
  · simp [hs.2] at waits

/-! ### The operations of the directory -/

/-- A grant changes the frame's entry, and no other but in its recall field (R36). -/
theorem grantHead_entry (s : State) (f : Nat) (h : WaitRec) (forced upgraded : Bool) (g : Nat) :
    RecallFieldChange
      (if g = f then
        { s.entry f with queue := (s.entry f).queue.tail, holders := (s.entry f).holders.set h.port true,
                         state := heldState h.mode }
      else s.entry g)
      ((s.grantHead f h forced upgraded).entry g) := by
  let s1 := (s.putEntry f { s.entry f with queue := (s.entry f).queue.tail }).returnRecord h.port
  have granted : (s.grantHead f h forced upgraded).entry g =
      ((s1.dropRecall f).putEntry f { (s1.dropRecall f).entry f with
        holders := ((s1.dropRecall f).entry f).holders.set h.port true,
        state := heldState h.mode }).entry g := rfl
  have dequeued : s1.entry f = { s.entry f with queue := (s.entry f).queue.tail } :=
    entry_putEntry_same s f _
  rw [granted, entry_putEntry]
  split
  · rw [dropRecall_entry s1 f f, dequeued]
    rfl
  next hg =>
    have other : s1.entry g = s.entry g := entry_putEntry_ne s _ hg
    exact other ▸ dropRecall_entry s1 f g

theorem noNewcomer_grantHead {s : State} {f : Nat} {h : WaitRec} {t : List WaitRec} (forced upgraded : Bool)
    (hq : (s.entry f).queue = h :: t) : NoNewcomer s (s.grantHead f h forced upgraded) := by
  intro g q
  rw [grantHead_entry s f h forced upgraded g]
  split
  next hg =>
    subst hg
    dsimp only
    refine ⟨fun held => ?_, waitsIn_of_sublist (List.tail_sublist _)⟩
    rw [perPort_get_set] at held
    split at held
    next hqp => exact .inr (by rw [hq, hqp]; exact waitsIn_head h t)
    next => exact .inl held
  next => exact ⟨.inl, id⟩

theorem noNewcomer_advanceFuel (forced : Bool) (f n : Nat) (s : State) :
    NoNewcomer s (State.advanceFuel forced f n s) := by
  induction n generalizing s with
  | zero => exact NoNewcomer.refl s
  | succ n ih =>
    have ensured := NoNewcomer.of_recallField (ensureRecall_entry s f)
    rw [State.advanceFuel]
    split
    · exact NoNewcomer.refl s
    next h t hq =>
      have grant : ∀ u, NoNewcomer s (State.advanceFuel forced f n (s.grantHead f h forced u)) :=
        fun u => (noNewcomer_grantHead forced u hq).trans (ih _)
      split
      · exact grant _
      · exact grant _
      · exact grant _
      · split
        · exact grant _
        · split
          · exact NoNewcomer.refl s
          · exact ensured
      · exact ensured
      all_goals exact NoNewcomer.refl s

theorem noNewcomer_advance (s : State) (forced : Bool) (f : Nat) : NoNewcomer s (s.advance forced f) :=
  noNewcomer_advanceFuel forced f _ s

theorem noNewcomer_dropRecall (s : State) (f : Nat) : NoNewcomer s (s.dropRecall f) :=
  NoNewcomer.of_recallField (dropRecall_entry s f)

theorem leaveToRelease_entry (s : State) (f : Nat) (p : Port) (g : Nat) :
    RecallFieldChange (s.entry g) ((s.leaveToRelease f p).1.entry g) := by
  unfold State.leaveToRelease
  split
  · rfl
  · split
    · dsimp only
      split
      · exact dropRecall_entry s f g
      · rfl
    · rfl

theorem set_false_get {ps : PortSet} {p q : Port} (h : (ps.set p false).get q = true) :
    ps.get q = true := by
  rw [perPort_get_set] at h
  split at h
  · cases h
  · exact h

theorem noNewcomer_leave (s : State) (f : Nat) (p : Port) : NoNewcomer s (s.leave f p).1 :=
  (NoNewcomer.of_putEntry (s := s) (f := f)
    (e := { s.entry f with holders := (s.entry f).holders.set p false })
    (fun _ => set_false_get) (List.Sublist.refl _)).trans
    (NoNewcomer.of_recallField (leaveToRelease_entry _ f p))

theorem noNewcomer_afterLeaving (s : State) (forced : Bool) (f : Nat) :
    NoNewcomer s (s.afterLeaving forced f) := by
  unfold State.afterLeaving
  dsimp only
  split
  · split
    · exact (NoNewcomer.of_putEntry (s := s) (f := f)
        (e := { s.entry f with state := .free, pinned := false }) (fun _ => id)
        (List.Sublist.refl _)).trans (noNewcomer_advance _ _ _)
    · exact noNewcomer_advance _ _ _
  · exact NoNewcomer.refl s

/-- The withdrawn claim of a port leaves the queue first; what follows lets no one in. -/
theorem withdraw_split (s : State) (f : Nat) (p : Port) :
    let s1 := (s.putEntry f
      { s.entry f with queue := (s.entry f).queue.filter (fun w => w.port != p) }).returnRecord p
    NoNewcomer s s1 ∧ NoNewcomer s1 (s.withdraw f p) := by
  intro s1
  refine ⟨?_, ?_⟩
  · exact NoNewcomer.of_putEntry (s := s) (f := f)
      (e := { s.entry f with queue := (s.entry f).queue.filter (fun w => w.port != p) })
      (fun _ => id) List.filter_sublist
  · unfold State.withdraw
    dsimp only
    split
    · exact (noNewcomer_dropRecall s1 f).trans (noNewcomer_advance _ _ _)
    · exact NoNewcomer.refl s1

theorem noNewcomer_withdraw (s : State) (f : Nat) (p : Port) : NoNewcomer s (s.withdraw f p) :=
  (withdraw_split s f p).1.trans (withdraw_split s f p).2

/-- A port whose claim on a frame is withdrawn waits on it no more (R47). -/
theorem withdraw_notWaiting (s : State) (f : Nat) (p : Port) :
    waitsIn ((s.withdraw f p).entry f).queue p = false := by
  refine (withdraw_split s f p).2.notWaiting ?_
  rw [returnRecord_entry, entry_putEntry_same]
  exact waitsIn_filter_ne _ p

/-- A port's holding of a frame ends first; what follows lets no one in. -/
theorem giveUp_split (s : State) (f : Nat) (p : Port) :
    ∃ e, e.holders = (s.entry f).holders.set p false ∧ e.queue = (s.entry f).queue ∧
      NoNewcomer (s.putEntry f e) (s.giveUp f p) := by
  unfold State.giveUp
  split
  · refine ⟨{ s.entry f with holders := (s.entry f).holders.set p false, state := .quarantined,
                             pinned := false }, rfl, rfl, ?_⟩
    exact (noNewcomer_dropRecall _ f).trans (NoNewcomer.of_entry (fun g => postSet_entry _ _ _ g))
  · refine ⟨{ s.entry f with holders := (s.entry f).holders.set p false }, rfl, rfl, ?_⟩
    exact (NoNewcomer.of_recallField (leaveToRelease_entry _ f p)).trans (noNewcomer_afterLeaving _ _ _)

theorem noNewcomer_giveUp (s : State) (f : Nat) (p : Port) : NoNewcomer s (s.giveUp f p) := by
  obtain ⟨e, holders, queue, after⟩ := giveUp_split s f p
  refine (NoNewcomer.of_putEntry (s := s) (f := f) (e := e) (fun q hq => ?_) ?_).trans after
  · exact set_false_get (holders ▸ hq)
  · rw [queue]

/-- A port that does not wait on a frame and gives it up is absent from it. -/
theorem giveUp_absent {s : State} {f : Nat} {p : Port} (h : waitsIn (s.entry f).queue p = false) :
    Absent (s.giveUp f p) f p := by
  obtain ⟨e, holders, queue, after⟩ := giveUp_split s f p
  refine after.absent ⟨?_, ?_⟩
  · rw [entry_putEntry_same, holders, perPort_get_set_same]
  · rw [entry_putEntry_same, queue]
    exact h

/-! ### A departure -/

theorem noNewcomer_foldl {op : State → Nat → State} (h : ∀ s f, NoNewcomer s (op s f)) (l : List Nat)
    (s : State) : NoNewcomer s (l.foldl op s) := by
  induction l generalizing s with
  | nil => exact NoNewcomer.refl s
  | cons f rest ih => exact (h s f).trans (ih _)

theorem noNewcomer_withdrawAll (s : State) (p : Port) : NoNewcomer s (s.withdrawAll p) :=
  noNewcomer_foldl (fun t f => noNewcomer_withdraw t f p) _ s.nextDraw

theorem noNewcomer_giveUpAll (s : State) (p : Port) : NoNewcomer s (s.giveUpAll p) :=
  noNewcomer_foldl (fun t f => noNewcomer_giveUp t f p) _ s.nextDraw

/-- An entry that is not the reset entry is listed. -/
theorem mem_dir_of_ne_reset {s : State} {f : Nat} (h : s.entry f ≠ Entry.reset) :
    (f, s.entry f) ∈ s.dir := by
  unfold State.entry at h ⊢
  cases hfind : Sparse.find? s.dir f with
  | none =>
    rw [hfind] at h
    exact absurd rfl h
  | some e => exact sparse_mem_of_find hfind

theorem mem_framesWaited {s : State} {f : Nat} {p : Port} (h : waitsIn (s.entry f).queue p = true) :
    f ∈ s.framesWaited p := by
  have listed : s.entry f ≠ Entry.reset := by
    intro reset
    rw [reset] at h
    cases h
  exact List.mem_map.2 ⟨_, List.mem_filter.2 ⟨mem_dir_of_ne_reset listed, h⟩, rfl⟩

theorem mem_framesHeld {s : State} {f : Nat} {p : Port} (h : (s.entry f).holders.get p = true) :
    f ∈ s.framesHeld p := by
  have listed : s.entry f ≠ Entry.reset := by
    intro reset
    rw [reset] at h
    cases p <;> cases h
  exact List.mem_map.2 ⟨_, List.mem_filter.2 ⟨mem_dir_of_ne_reset listed, h⟩, rfl⟩

theorem foldl_withdraw_notWaiting (l : List Nat) (s : State) (f : Nat) (p : Port) (hf : f ∈ l) :
    waitsIn ((l.foldl (fun t g => t.withdraw g p) s).entry f).queue p = false := by
  induction l generalizing s with
  | nil => cases hf
  | cons g rest ih =>
    by_cases hrest : f ∈ rest
    · exact ih _ hrest
    · have hfg : f = g := (List.mem_cons.1 hf).resolve_right hrest
      subst hfg
      exact (noNewcomer_foldl (fun t g => noNewcomer_withdraw t g p) rest _).notWaiting
        (withdraw_notWaiting s f p)

/-- After its claims are withdrawn a port waits nowhere (R51, R168). -/
theorem withdrawAll_notWaiting (s : State) (p : Port) (f : Nat) :
    waitsIn ((s.withdrawAll p).entry f).queue p = false := by
  cases hwaits : waitsIn (s.entry f).queue p with
  | false => exact (noNewcomer_withdrawAll s p).notWaiting hwaits
  | true =>
    exact foldl_withdraw_notWaiting _ s.nextDraw f p
      ((freeOrder_perm s _).mem_iff.2 (mem_framesWaited hwaits))

theorem foldl_giveUp_absent (l : List Nat) (s : State) (f : Nat) (p : Port) (hf : f ∈ l)
    (h : waitsIn (s.entry f).queue p = false) :
    Absent (l.foldl (fun t g => t.giveUp g p) s) f p := by
  induction l generalizing s with
  | nil => cases hf
  | cons g rest ih =>
    by_cases hrest : f ∈ rest
    · exact ih _ hrest ((noNewcomer_giveUp s g p).notWaiting h)
    · have hfg : f = g := (List.mem_cons.1 hf).resolve_right hrest
      subst hfg
      exact (noNewcomer_foldl (fun t g => noNewcomer_giveUp t g p) rest _).absent (giveUp_absent h)

/-- A port that waits nowhere and gives up its holdings is absent from every frame (R170). -/
theorem giveUpAll_absent {s : State} {p : Port} (h : ∀ f, waitsIn (s.entry f).queue p = false)
    (f : Nat) : Absent (s.giveUpAll p) f p := by
  cases hheld : (s.entry f).holders.get p with
  | false => exact (noNewcomer_giveUpAll s p).absent ⟨hheld, h f⟩
  | true =>
    exact foldl_giveUp_absent _ s.nextDraw f p
      ((freeOrder_perm s _).mem_iff.2 (mem_framesHeld hheld)) (h f)

theorem freeTokenOf_entry (s : State) (p : Port) (f : Nat) : (s.freeTokenOf p).entry f = s.entry f := by
  unfold State.freeTokenOf
  split <;> rfl

theorem discardAnswer_entry (s : State) (p : Port) (f : Nat) :
    (s.discardAnswer p).entry f = s.entry f := by
  unfold State.discardAnswer
  split
  · split <;> rfl
  · rfl

/-- Past the claims and the holdings a port reset changes no entry. -/
theorem departed_entry (s : State) (p : Port) (f : Nat) :
    (State.departed s p).entry f = ((s.withdrawAll p).giveUpAll p).entry f :=
  (discardAnswer_entry _ p f).trans (freeTokenOf_entry _ p f)

theorem depart_entry (s : State) (p : Port) (f : Nat) :
    (s.depart p).entry f = ((s.withdrawAll p).giveUpAll p).entry f := departed_entry s p f

/-- After its port reset a port is absent from every frame (R170, R171). -/
theorem depart_absent (s : State) (p : Port) (f : Nat) : Absent (s.depart p) f p := by
  unfold Absent
  rw [depart_entry]
  exact giveUpAll_absent (withdrawAll_notWaiting s p) f

@[simp] theorem dropNotify_entry (s : State) (p : Port) (f : Nat) :
    (s.dropNotify p).entry f = s.entry f := rfl

@[simp] theorem clearMaps_entry (s : State) (p : Port) (f : Nat) :
    (s.clearMaps p).entry f = s.entry f := rfl

/-- A DETACH's departure changes no entry but by its claims. -/
theorem detachPort_entry (s : State) (p : Port) (f : Nat) :
    (s.detachPort p).entry f = (s.withdrawAll p).entry f := by
  unfold State.detachPort
  dsimp only
  rw [setUnit_entry, clearMaps_entry, dropNotify_entry, freeTokenOf_entry]

theorem detachPort_notWaiting (s : State) (p : Port) (f : Nat) :
    waitsIn ((s.detachPort p).entry f).queue p = false := by
  rw [detachPort_entry]
  exact withdrawAll_notWaiting s p f

end Sys2Proof.Proofs
end

section
/-! PROOFS. Counts over the directory: the sum of a measure of its entries, and how it follows an entry that is
replaced (R16, R21, R163). -/

namespace Sys2Proof.Proofs
set_option Elab.async false

open Sys2Proof.Machine Sys2Proof.Safety Sys2Proof.Laws

/-- The sum of a measure over the listed entries. -/
def dirSum (g : Entry → Nat) (d : Directory) : Nat := (d.map (fun c => g c.2)).sum

theorem countP_eq_dirSum (has : Entry → Bool) (d : Directory) :
    d.countP (fun c => has c.2) = dirSum (fun e => (has e).toNat) d := by
  induction d with
  | nil => rfl
  | cons c t ih =>
    rw [List.countP_cons, ih, dirSum, dirSum, List.map_cons, List.sum_cons]
    cases has c.2 <;> simp; omega

theorem dirSum_perm {g : Entry → Nat} {d d' : Directory} (h : d.Perm d') : dirSum g d = dirSum g d' :=
  (h.map _).sum_eq

/-- A rising list is the listed entry of a key and the rest. -/
theorem sparse_perm_erase {α : Type} {l : List (Nat × α)} {a : Nat} {v : α} (h : Sparse.rising l)
    (hv : Sparse.find? l a = some v) : l.Perm ((a, v) :: Sparse.erase l a) := by
  induction l with
  | nil => cases hv
  | cons c t ih =>
    obtain ⟨hc, ht⟩ := List.pairwise_cons.1 h
    rw [Sparse.find?] at hv
    split at hv
    next ha =>
      cases hv
      have kept : Sparse.erase (c :: t) a = t := by
        rw [Sparse.erase, List.filter_cons_of_neg (by simp [ha])]
        exact List.filter_eq_self.2 (fun d hd => by simpa [ha] using (hc d hd).ne')
      rw [kept, ha]
    next ha =>
      have kept : Sparse.erase (c :: t) a = c :: Sparse.erase t a :=
        List.filter_cons_of_pos (by simpa using Ne.symm ha)
      rw [kept]
      exact ((ih ht hv).cons c).trans (List.Perm.swap _ _ _)

theorem sparse_erase_of_none {α : Type} {l : List (Nat × α)} {a : Nat}
    (hv : Sparse.find? l a = none) : Sparse.erase l a = l := by
  induction l with
  | nil => rfl
  | cons c t ih =>
    rw [Sparse.find?] at hv
    split at hv
    · cases hv
    next ha =>
      rw [Sparse.erase, List.filter_cons_of_pos (by simpa using Ne.symm ha)]
      exact congrArg (c :: ·) (ih hv)

theorem sparse_perm_insert {α : Type} (l : List (Nat × α)) (a : Nat) (v : α) :
    (Sparse.insert l a v).Perm ((a, v) :: l) := by
  induction l with
  | nil => exact List.Perm.refl _
  | cons c t ih =>
    rw [Sparse.insert]
    split
    · exact List.Perm.refl _
    · exact (ih.cons c).trans (List.Perm.swap _ _ _)

/-- What the directory sums to apart from one frame, before and after that frame's entry is replaced. -/
theorem dirSum_putDirectory {g : Entry → Nat} (hg : g Entry.reset = 0) {d : Directory}
    (h : Directory.wf d) (f : Nat) (e : Entry) :
    ∃ rest, dirSum g d = rest + g ((Sparse.find? d f).getD Entry.reset) ∧
      dirSum g (putDirectory d f e) = rest + g e := by
  refine ⟨dirSum g (Sparse.erase d f), ?_, ?_⟩
  · cases hfind : Sparse.find? d f with
    | none => simp [sparse_erase_of_none hfind, hg]
    | some v =>
      rw [dirSum_perm (sparse_perm_erase h.1 hfind), dirSum, List.map_cons, List.sum_cons, Nat.add_comm]
      rfl
  · unfold putDirectory
    split
    next he => rw [he, hg, Nat.add_zero]
    next =>
      rw [Sparse.put, dirSum_perm (sparse_perm_insert (Sparse.erase d f) f e), dirSum, List.map_cons,
        List.sum_cons, Nat.add_comm]
      rfl

/-- A count that is the sum of a property's holding follows it by `countChange`. -/
theorem countChange_follows (was is : Bool) (rest : Nat) :
    countChange was is (rest + was.toNat) = rest + is.toNat := by
  cases was <;> cases is <;> simp [countChange]

theorem countP_putEntry {has : Entry → Bool} (hreset : has Entry.reset = false) {s : State}
    (h : Directory.wf s.dir) (f : Nat) (e : Entry) :
    countChange (has (s.entry f)) (has e) (s.dir.countP (fun c => has c.2)) =
      (s.putEntry f e).dir.countP (fun c => has c.2) := by
  obtain ⟨rest, before, after⟩ := dirSum_putDirectory (g := fun e => (has e).toNat)
    (by simp [hreset]) h f e
  rw [countP_eq_dirSum, countP_eq_dirSum, putEntry_dir, after, before]
  exact countChange_follows _ _ _

/-- Nothing is summed where every frame measures 0. -/
theorem countP_eq_zero_of_entry {has : Entry → Bool} {s : State} (h : Directory.wf s.dir)
    (hnone : ∀ f, has (s.entry f) = false) : s.dir.countP (fun c => has c.2) = 0 := by
  refine List.countP_eq_zero.2 (fun c hc => ?_)
  have listed := (sparse_find_iff_mem h.1 c.1 c.2).2 hc
  have entry : s.entry c.1 = c.2 := by rw [State.entry, listed]; rfl
  simp [← entry, hnone]

/-! ### The counts of states and holdings -/

/-- The invariants of the counts, with the canonical form they rest on. -/
def CountsRight (s : State) : Prop :=
  Directory.wf s.dir ∧ StateCountsRight s ∧ HoldingCountsRight s

theorem edit_keeps_counts {B : Scope} {s t : State} (h : Edit B s t) (hs : CountsRight s) :
    CountsRight t := by
  obtain ⟨hwf, ⟨hquar, hpois⟩, hhold⟩ := hs
  cases h with
  | entry f e _ _ =>
    refine ⟨directory_wf_putDirectory f e hwf, ⟨?_, ?_⟩, fun p => ?_⟩
    · have count : (s.putEntry f e).quarantinedCount = countChange
          ((s.entry f).state == .quarantined) (e.state == .quarantined) s.quarantinedCount := rfl
      rw [count, hquar]
      exact countP_putEntry (has := fun e => e.state == .quarantined) rfl hwf f e
    · have count : (s.putEntry f e).poisonedCount = countChange
          ((s.entry f).state == .poisoned) (e.state == .poisoned) s.poisonedCount := rfl
      rw [count, hpois]
      exact countP_putEntry (has := fun e => e.state == .poisoned) rfl hwf f e
    · rw [putEntry_unit]
      exact hhold p ▸ countP_putEntry (has := fun e => e.holders.get p) (by cases p <;> rfl) hwf f e
  | post p r =>
    refine ⟨hwf, ⟨hquar, hpois⟩, fun q => ?_⟩
    rw [post_unit]
    split
    next hq =>
      rw [postUnit_touches, hq]
      exact hhold p
    next => exact hhold q
  | unit p u h _ =>
    refine ⟨hwf, ⟨hquar, hpois⟩, fun q => ?_⟩
    rw [setUnit_unit]
    split
    next hq =>
      rw [h.holding, hq]
      exact hhold p
    next => exact hhold q
  | rest _ h =>
    rw [h]
    exact ⟨hwf, ⟨hquar, hpois⟩, hhold⟩
  | _ => exact ⟨hwf, ⟨hquar, hpois⟩, hhold⟩

theorem countsRight_partReset {s t : State} (h : exec .partReset s = .next t) : CountsRight t := by
  cases h
  refine ⟨⟨List.Pairwise.nil, nofun⟩, ⟨rfl, rfl⟩, fun p => ?_⟩
  rw [afterPartReset_unit]
  rfl

/-- The first half of O12. -/
theorem step_keeps_counts {s t : State} (hs : CountsRight s) (h : step s = .next t) : CountsRight t := by
  have keeps := fun {u v : State} (run : Edits Scope.any u v) (hu : CountsRight u) =>
    run.keeps (fun _ _ edit => edit_keeps_counts edit) hu
  rcases step_cases (listed := fun _ => True) (fun _ _ => trivial) h with ⟨now, pending, run⟩ |
    ⟨rest, hpart⟩ | ⟨strap, rest, _, run⟩ | ⟨p, rest, _, rfl⟩
  · exact keeps run hs
  · exact countsRight_partReset hpart
  · exact keeps run hs
  · obtain ⟨hwf, hstates, hhold⟩ := keeps (edits_departed { s with pending := rest } p trivial) hs
    refine ⟨hwf, hstates, fun q => ?_⟩
    rw [depart_eq, resetUnit_unit]
    split
    next hq =>
      subst hq
      exact (countP_eq_zero_of_entry (has := fun e => e.holders.get q) hwf
        (fun f => (depart_absent { s with pending := rest } q f).1)).symm
    next => exact hhold q

/-! ### The UNINITIALIZED count -/

/-- A count over the first `n` numbers follows the property at one of them. -/
theorem countP_range_update {has has' : Nat → Bool} {f n : Nat}
    (hother : ∀ g, g ≠ f → has' g = has g) (hf : f < n) :
    ∃ rest, (List.range n).countP has = rest + (has f).toNat ∧
      (List.range n).countP has' = rest + (has' f).toNat := by
  induction n with
  | zero => omega
  | succ n ih =>
    simp only [List.range_succ, List.countP_append, List.countP_singleton]
    by_cases hfn : f = n
    · subst hfn
      have same : (List.range f).countP has' = (List.range f).countP has :=
        List.countP_congr (fun g hg => by rw [hother g (List.mem_range.1 hg).ne])
      refine ⟨(List.range f).countP has, ?_, ?_⟩
      · cases has f <;> rfl
      · rw [same]
        cases has' f <;> rfl
    · obtain ⟨rest, before, after⟩ := ih (by omega)
      refine ⟨rest + (if has n then 1 else 0), ?_, ?_⟩
      · omega
      · rw [hother n (Ne.symm hfn)]
        omega

/-- The UNINITIALIZED count follows the entries of the frames of the part; no other is listed (R16). -/
theorem edit_keeps_uninitCount {B : Scope} {s t : State} (h : Edit B s t)
    (hB : ∀ f, B.listed f → f < s.frames) (hs : Directory.wf s.dir ∧ UninitCountRight s) :
    Directory.wf t.dir ∧ UninitCountRight t := by
  obtain ⟨hwf, hlisted, hcount⟩ := hs
  cases h with
  | entry f e listed _ =>
    have hf : f < s.frames ∨ (s.entry f = Entry.reset ∧ e = Entry.reset) := by
      rcases listed with lt | lt | keepsReset
      · exact .inl lt
      · exact .inl (hB f lt)
      · by_cases reset : s.entry f = Entry.reset
        · exact .inr ⟨reset, keepsReset reset⟩
        · exact .inl (hlisted _ (mem_dir_of_ne_reset reset))
    refine ⟨directory_wf_putDirectory f e hwf, fun c hc => ?_, ?_⟩
    · rcases hf with lt | ⟨_, reset⟩
      · rw [putEntry_dir, putDirectory] at hc
        split at hc
        · exact hlisted c (sparse_mem_erase.1 hc).1
        · rcases sparse_mem_put.1 hc with rfl | hc
          · exact lt
          · exact hlisted c hc.1
      · rw [putEntry_dir, putDirectory, if_pos reset] at hc
        exact hlisted c (sparse_mem_erase.1 hc).1
    · have count : (s.putEntry f e).uninitCount = countChange ((s.entry f).state == .uninitialized)
          (e.state == .uninitialized) s.uninitCount := rfl
      rw [count, hcount, putEntry_frames]
      rcases hf with lt | ⟨old, reset⟩
      · obtain ⟨rest, before, after⟩ := countP_range_update
          (has := fun g => (s.entry g).state == .uninitialized)
          (has' := fun g => ((s.putEntry f e).entry g).state == .uninitialized)
          (fun g hg => by rw [entry_putEntry_ne s e hg]) lt
        rw [before, after, entry_putEntry_same]
        exact countChange_follows _ _ _
      · have same : ∀ g, (s.putEntry f e).entry g = s.entry g := by
          intro g
          rw [entry_putEntry]
          split
          next hg => rw [hg, old, reset]
          next => rfl
        rw [old, reset] at *
        simp only [same]
        rfl
  | rest _ h =>
    rw [h]
    exact ⟨hwf, hlisted, hcount⟩
  | _ => exact ⟨hwf, hlisted, hcount⟩

theorem edit_frames {B : Scope} {s t : State} (h : Edit B s t) : t.frames = s.frames := by
  cases h with
  | rest _ h => rw [h]
  | _ => rfl

theorem edits_keep_uninitCount {B : Scope} {s t : State} (run : Edits B s t)
    (hB : ∀ f, B.listed f → f < s.frames) (hs : Directory.wf s.dir ∧ UninitCountRight s) :
    Directory.wf t.dir ∧ UninitCountRight t := by
  have kept := run.keeps
    (I := fun u => u.frames = s.frames ∧ Directory.wf u.dir ∧ UninitCountRight u)
    (fun u v edit hu => ⟨(edit_frames edit).trans hu.1,
      edit_keeps_uninitCount edit (fun f hf => hu.1 ▸ hB f hf) hu.2⟩) ⟨rfl, hs⟩
  exact kept.2

theorem uninitCountRight_of_dir_nil {s : State} (hdir : s.dir = []) (hcount : s.uninitCount = s.frames) :
    UninitCountRight s := by
  refine ⟨fun c hc => by simp [hdir] at hc, ?_⟩
  have all : (List.range s.frames).countP (fun f => (s.entry f).state == .uninitialized) =
      (List.range s.frames).length :=
    List.countP_eq_length.2 (fun f _ => by rw [entry_of_dir_nil hdir]; rfl)
  rw [hcount, all, List.length_range]

theorem uninitCountRight_partReset {s t : State} (h : exec .partReset s = .next t) :
    UninitCountRight t := by
  cases h
  exact uninitCountRight_of_dir_nil rfl rfl

/-- Under RSTn the directory is empty, and its release counts every frame of the part before the sweep. -/
theorem step_while_reset_keeps_uninitCount {s t : State} (hrst : s.rstAsserted = true)
    (hold : ResetHolds s) (hs : UninitCountRight s) (h : step s = .next t) : UninitCountRight t := by
  rcases step_while_reset hrst hold h with ⟨now, pending, rfl⟩ | ⟨pending, p, b, rfl⟩ | ⟨rest, hpart⟩ |
    ⟨strap, rest, rfl⟩
  · exact hs
  · exact hs
  · exact uninitCountRight_partReset hpart
  · have hdir : (State.released { s with pending := rest } strap).dir = [] := (hold hrst).1
    have run := edits_released (B := { Scope.any with listed := fun _ => False })
      { s with pending := rest } strap
    exact (edits_keep_uninitCount run nofun ⟨by rw [hdir]; exact ⟨List.Pairwise.nil, nofun⟩,
      uninitCountRight_of_dir_nil hdir rfl⟩).2

/-- The second half of O12: the scrub queue's frames are listed, the rest is edits. -/
theorem step_keeps_uninitCount {s t : State} (hwf : Directory.wf s.dir) (hsound : DirectorySound s)
    (hs : UninitCountRight s) (h : step s = .next t) : UninitCountRight t := by
  obtain ⟨_, ⟨_, _, hscrubbing⟩, hold⟩ := hsound
  have hB : ∀ d ∈ s.scrubQueue, d.frame < s.frames := by
    intro d hd
    have state : (s.entry d.frame).state = .scrubbing :=
      (hscrubbing d.frame).2 (List.mem_map.2 ⟨d, hd, rfl⟩)
    exact hs.1 _ (mem_dir_of_ne_reset (ne_reset_of_state (by simp [state])))
  rcases step_cases (listed := fun f => f < s.frames) hB h with ⟨now, pending, run⟩ |
    ⟨rest, hpart⟩ | ⟨strap, rest, hrst, _⟩ | ⟨p, rest, _, rfl⟩
  · exact (edits_keep_uninitCount run (fun _ => id) ⟨hwf, hs⟩).2
  · exact uninitCountRight_partReset hpart
  · exact step_while_reset_keeps_uninitCount hrst hold hs h
  · exact (edits_keep_uninitCount (B := { Scope.any with listed := fun _ => False })
      (edits_departed { s with pending := rest } p trivial) nofun ⟨hwf, hs⟩).2

/-- Settles O12: each edit moves a count with what it counts. -/
theorem stepKeepsDirectoryCounts : Obligations.StepKeepsDirectoryCounts :=
  ⟨fun _ _ hs h => step_keeps_counts hs h,
    fun _ _ hwf hsound hs h => step_keeps_uninitCount hwf hsound hs h⟩

end Sys2Proof.Proofs
end

section
/-! PROOFS. What the directory's operations leave of the other frames. -/

namespace Sys2Proof.Proofs
set_option Elab.async false

open Sys2Proof.Machine Sys2Proof.Safety Sys2Proof.Laws

/-- Every frame but one keeps its entry up to the recall field. -/
def OthersKept (f : Nat) (s t : State) : Prop := ∀ g, g ≠ f → RecallFieldChange (s.entry g) (t.entry g)

theorem OthersKept.refl (f : Nat) (s : State) : OthersKept f s s := fun _ _ => rfl

theorem OthersKept.trans {f : Nat} {s t u : State} (h : OthersKept f s t) (k : OthersKept f t u) :
    OthersKept f s u := fun g hg => (h g hg).trans (k g hg)

theorem othersKept_putEntry (s : State) (f : Nat) (e : Entry) : OthersKept f s (s.putEntry f e) :=
  fun g hg => by
    rw [entry_putEntry_ne s e hg]
    rfl

theorem OthersKept.of_recallField {f : Nat} {s t : State}
    (h : ∀ g, RecallFieldChange (s.entry g) (t.entry g)) : OthersKept f s t := fun g _ => h g

theorem othersKept_advanceFuel (forced : Bool) (f n : Nat) (s : State) :
    OthersKept f s (State.advanceFuel forced f n s) := by
  induction n generalizing s with
  | zero => exact OthersKept.refl f s
  | succ n ih =>
    have grant : ∀ h u, OthersKept f s (State.advanceFuel forced f n (s.grantHead f h forced u)) := by
      intro h u g hg
      have granted := grantHead_entry s f h forced u g
      rw [if_neg hg] at granted
      exact granted.trans (ih _ g hg)
    have ensured : OthersKept f s (s.ensureRecall f) := OthersKept.of_recallField (ensureRecall_entry s f)
    rw [State.advanceFuel]
    split
    · exact OthersKept.refl f s
    · split
      · exact grant _ _
      · exact grant _ _
      · exact grant _ _
      · split
        · exact grant _ _
        · split
          · exact OthersKept.refl f s
          · exact ensured
      · exact ensured
      all_goals exact OthersKept.refl f s

theorem othersKept_advance (s : State) (forced : Bool) (f : Nat) :
    OthersKept f s (s.advance forced f) := othersKept_advanceFuel forced f _ s

theorem othersKept_afterLeaving (s : State) (forced : Bool) (f : Nat) :
    OthersKept f s (s.afterLeaving forced f) := by
  unfold State.afterLeaving
  dsimp only
  split
  · split
    · exact (othersKept_putEntry s f _).trans (othersKept_advance _ _ f)
    · exact othersKept_advance s _ f
  · exact OthersKept.refl f s

theorem othersKept_leave (s : State) (f : Nat) (p : Port) : OthersKept f s (s.leave f p).1 :=
  (othersKept_putEntry s f _).trans (OthersKept.of_recallField (leaveToRelease_entry _ f p))

theorem othersKept_withdraw (s : State) (f : Nat) (p : Port) : OthersKept f s (s.withdraw f p) := by
  let s1 := (s.putEntry f
    { s.entry f with queue := (s.entry f).queue.filter (fun w => w.port != p) }).returnRecord p
  have dequeued : OthersKept f s s1 := othersKept_putEntry s f _
  unfold State.withdraw
  dsimp only
  split
  · exact (dequeued.trans (OthersKept.of_recallField (dropRecall_entry s1 f))).trans
      (othersKept_advance _ _ f)
  · exact dequeued

theorem othersKept_quarantine (s : State) (f : Nat) (p : Port) : OthersKept f s (s.quarantine f p) := by
  intro g hg
  have quarantined := ((othersKept_putEntry s f { s.entry f with
    holders := (s.entry f).holders.set p false, state := .quarantined, pinned := false }).trans
    (OthersKept.of_recallField (dropRecall_entry _ f))) g hg
  have told := postSet_entry ((s.putEntry f { s.entry f with
    holders := (s.entry f).holders.set p false, state := .quarantined, pinned := false }).dropRecall f)
    (quarantineTold s p (s.entry f).queue) (.quarantined f p) g
  unfold State.quarantine
  dsimp only
  rw [told]
  exact quarantined

theorem othersKept_giveUp (s : State) (f : Nat) (p : Port) : OthersKept f s (s.giveUp f p) := by
  unfold State.giveUp
  split
  · exact othersKept_quarantine s f p
  · exact (othersKept_leave s f p).trans (othersKept_afterLeaving _ _ f)

end Sys2Proof.Proofs
end

section
/-! PROOFS. The moves of the directory: every command is a run of a few kinds of change, each with what the
commands check before they make it. The invariants of the directory, the wait records and the recall unit are
kept move by move. -/

namespace Sys2Proof.Proofs
set_option Elab.async false

open Sys2Proof.Machine Sys2Proof.Safety Sys2Proof.Laws

/-! ### Changes that no invariant of the directory sees -/

/-- A unit keeps its waiting count, goes OFFLINE never, and gains no map entry while OFFLINE. -/
structure UnitQuiet (u v : PortUnit) : Prop where
  waiting : v.waiting = u.waiting
  online : v.online = false → u.online = false
  maps : v.online = false → u.map0 = [] ∧ u.map1 = [] → v.map0 = [] ∧ v.map1 = []

/-- The directory, the wait pool, the recall unit and the frames of the scrub queue stay. -/
structure Quiet (s t : State) : Prop where
  dir : t.dir = s.dir
  poolFree : t.poolFree = s.poolFree
  recalls : t.recalls = s.recalls
  deferred : t.deferred = s.deferred
  scrubFrames : t.scrubQueue.map ScrubEntry.frame = s.scrubQueue.map ScrubEntry.frame
  unit : ∀ p, UnitQuiet (s.unit p) (t.unit p)

theorem UnitQuiet.refl (u : PortUnit) : UnitQuiet u u := ⟨rfl, id, fun _ => id⟩

theorem UnitQuiet.trans {u v w : PortUnit} (h : UnitQuiet u v) (k : UnitQuiet v w) : UnitQuiet u w :=
  ⟨k.waiting.trans h.waiting, fun off => h.online (k.online off),
    fun off empty => k.maps off (h.maps (k.online off) empty)⟩

theorem Quiet.refl (s : State) : Quiet s s := ⟨rfl, rfl, rfl, rfl, rfl, fun _ => UnitQuiet.refl _⟩

theorem Quiet.trans {s t u : State} (h : Quiet s t) (k : Quiet t u) : Quiet s u :=
  ⟨k.dir.trans h.dir, k.poolFree.trans h.poolFree, k.recalls.trans h.recalls,
    k.deferred.trans h.deferred, k.scrubFrames.trans h.scrubFrames, fun p => (h.unit p).trans (k.unit p)⟩

theorem Quiet.entry {s t : State} (h : Quiet s t) (f : Nat) : t.entry f = s.entry f := by
  rw [State.entry, State.entry, h.dir]

/-- A change outside the directory, the units, the wait pool, the recall unit and the scrub queue. -/
theorem Quiet.of_same {s t : State} (dir : t.dir = s.dir) (poolFree : t.poolFree = s.poolFree)
    (recalls : t.recalls = s.recalls) (deferred : t.deferred = s.deferred)
    (scrubQueue : t.scrubQueue = s.scrubQueue) (ports : t.ports = s.ports) : Quiet s t :=
  ⟨dir, poolFree, recalls, deferred, by rw [scrubQueue], fun p => by
    have same : t.unit p = s.unit p := by rw [State.unit, State.unit, ports]
    rw [same]
    exact UnitQuiet.refl _⟩

theorem Quiet.of_setUnit {s : State} {p : Port} {u : PortUnit} (h : UnitQuiet (s.unit p) u) :
    Quiet s (s.setUnit p u) := by
  refine ⟨rfl, rfl, rfl, rfl, rfl, fun q => ?_⟩
  rw [setUnit_unit]
  split
  next hq => exact hq ▸ h
  next => exact UnitQuiet.refl _

theorem UnitQuiet.of_same {u v : PortUnit} (waiting : v.waiting = u.waiting) (online : v.online = u.online)
    (map0 : v.map0 = u.map0) (map1 : v.map1 = u.map1) : UnitQuiet u v :=
  ⟨waiting, fun off => online ▸ off, fun _ empty => ⟨map0.trans empty.1, map1.trans empty.2⟩⟩

theorem quiet_post (s : State) (p : Port) (r : EventRecord) : Quiet s (s.post p r) :=
  Quiet.of_setUnit (by
    rw [postUnit_touches]
    exact UnitQuiet.of_same rfl rfl rfl rfl)

theorem quiet_postList (l : List Port) (s : State) (r : EventRecord) : Quiet s (s.postList l r) := by
  induction l generalizing s with
  | nil => exact Quiet.refl s
  | cons p rest ih => exact (quiet_post s p r).trans (ih (s.post p r))

theorem quiet_postSet (s : State) (ps : PortSet) (r : EventRecord) : Quiet s (s.postSet ps r) :=
  quiet_postList _ s r

theorem quiet_answerBus (s : State) (p : Port) (error : Bool) (data : List Word) :
    Quiet s (s.answerBus p error data) := Quiet.of_setUnit (UnitQuiet.of_same rfl rfl rfl rfl)

theorem quiet_setResults (s : State) (p : Port) (r : Words4) : Quiet s (s.setResults p r) :=
  Quiet.of_setUnit (UnitQuiet.of_same rfl rfl rfl rfl)

theorem quiet_takeCode (s : State) (p : Port) (code : Word) : Quiet s (s.takeCode p code) :=
  Quiet.of_setUnit (UnitQuiet.of_same rfl rfl rfl rfl)

/-- A map that changes stays empty where both maps are empty. -/
theorem unitQuiet_setMap (u : PortUnit) (c : Context) {m : MapTable}
    (h : u.online = false → u.mapOf c = [] → m = []) : UnitQuiet u (u.setMap c m) := by
  cases c with
  | c0 => exact ⟨rfl, id, fun off empty => ⟨h off empty.1, empty.2⟩⟩
  | c1 => exact ⟨rfl, id, fun off empty => ⟨empty.1, h off empty.2⟩⟩

theorem quiet_clearMap (s : State) (p : Port) (c : Context) (page : Nat) : Quiet s (s.clearMap p c page) :=
  Quiet.of_setUnit (unitQuiet_setMap _ c (fun _ empty => by rw [empty]; rfl))

theorem quiet_writeMap {s : State} {p : Port} {c : Context} {page : Nat} {m : MapEntry}
    (h : (s.unit p).online = true ∨ s.mapEntry p c page ≠ none) : Quiet s (s.writeMap p c page m) := by
  refine Quiet.of_setUnit (unitQuiet_setMap _ c (fun off empty => ?_))
  rcases h with on | listed
  · simp [on] at off
  · exact absurd (by rw [State.mapEntry, empty]; rfl) listed

theorem quiet_repair (s : State) (r : Request) (cause : FaultCause) : Quiet s (s.repair r cause) := by
  unfold State.repair
  split
  · exact Quiet.refl s
  next m hm =>
    split
    · split
      · exact quiet_clearMap _ _ _ _
      · exact quiet_writeMap (.inr (by simp [hm]))
      · exact Quiet.refl s
    · exact Quiet.refl s

theorem quiet_serveWindow (s : State) (r : Request) : Quiet s (s.serveWindow r).1 := by
  unfold State.serveWindow
  split
  · exact ((quiet_repair s r _).trans (quiet_post _ _ _)).trans (quiet_answerBus _ _ _ _)
  · split
    · exact quiet_answerBus _ _ _ _
    · exact Quiet.of_same rfl rfl rfl rfl rfl rfl

theorem quiet_takeWaiting (s : State) (q : Requester) : Quiet s (s.takeWaiting q) := by
  cases q with
  | port p =>
    exact (Quiet.of_setUnit (s := s) (p := p) (u := { s.unit p with request := none })
      (UnitQuiet.of_same rfl rfl rfl rfl)).trans (Quiet.of_same rfl rfl rfl rfl rfl rfl)
  | scrub => exact Quiet.of_same rfl rfl rfl rfl rfl rfl

theorem quiet_arbitrateFuel (n : Nat) (s : State) : Quiet s (State.arbitrateFuel n s) := by
  induction n generalizing s with
  | zero => exact Quiet.of_same rfl rfl rfl rfl rfl rfl
  | succ n ih =>
    rw [State.arbitrateFuel]
    split
    · exact Quiet.of_same rfl rfl rfl rfl rfl rfl
    · exact (quiet_takeWaiting s _).trans (Quiet.of_same rfl rfl rfl rfl rfl rfl)
    next q r _ _ =>
      have served : Quiet s ((s.takeWaiting q).serveWindow r).1 :=
        (quiet_takeWaiting s q).trans (quiet_serveWindow _ r)
      dsimp only
      split
      · split
        · exact served.trans (Quiet.of_same rfl rfl rfl rfl rfl rfl)
        · exact served.trans (ih _)
      · exact served

theorem quiet_posted (s : State) : Quiet s s.posted := by
  unfold State.posted
  split
  · exact quiet_arbitrateFuel 5 s
  · exact Quiet.refl s

theorem quiet_afterService (s : State) : Quiet s s.afterService := by
  unfold State.afterService
  split
  · exact Quiet.of_same rfl rfl rfl rfl rfl rfl
  · exact quiet_arbitrateFuel 5 s

theorem quiet_postHeld (s : State) (p : Port) : Quiet s (s.postHeld p) := by
  rw [postHeld_eq]
  exact Quiet.of_setUnit (UnitQuiet.of_same rfl rfl rfl rfl)

theorem quiet_postScrub (s : State) (f b : Nat) : Quiet s (s.postScrub f b) :=
  (Quiet.of_same (s := s) (t := { s with burst := b, scrubRequest := some ⟨f, b⟩ }) rfl rfl rfl rfl rfl
    rfl).trans
    (quiet_posted _)

theorem quiet_freeTokenOf (s : State) (p : Port) : Quiet s (s.freeTokenOf p) := by
  unfold State.freeTokenOf
  split
  · exact Quiet.of_same rfl rfl rfl rfl rfl rfl
  · exact Quiet.refl s

theorem quiet_dropNotify (s : State) (p : Port) : Quiet s (s.dropNotify p) := by
  refine ⟨rfl, rfl, rfl, rfl, ?_, fun _ => UnitQuiet.refl _⟩
  rw [State.dropNotify, List.map_map]
  refine List.map_congr_left (fun d _ => ?_)
  dsimp only [Function.comp]
  split <;> rfl

theorem quiet_discardAnswer (s : State) (p : Port) : Quiet s (s.discardAnswer p) := by
  unfold State.discardAnswer
  split
  · split
    · exact Quiet.of_same rfl rfl rfl rfl rfl rfl
    · exact Quiet.of_same rfl rfl rfl rfl rfl rfl
  · exact Quiet.refl s

/-! ### The moves -/

/-- A frame becomes SCRUBBING at the tail of the scrub queue (R124). -/
def State.toScrub (s : State) (f : Nat) (origin : Origin) (notify : Option Port) : State :=
  { s.putEntry f { s.entry f with state := .scrubbing, pinned := false } with
    scrubQueue := s.scrubQueue ++ [⟨f, origin, notify⟩] }

/-- A change of an entry after which nothing is left to do for the frame: a holder comes to a frame without
waiters, or changes its mode, the pin is set or cleared, or a frame to be scrubbed loses its holders. -/
inductive Rehold (s : State) (f : Nat) : Entry → Prop where
  | same : Rehold s f (s.entry f)
  | hold (p : Port) (m : Mode) (online : (s.unit p).online = true) (free : (s.entry f).state = .free) :
      Rehold s f { s.entry f with holders := onePort p, state := heldState m }
  | join (p : Port) (online : (s.unit p).online = true) (shared : (s.entry f).state = .shared)
      (alone : (s.entry f).queue = []) :
      Rehold s f { s.entry f with holders := (s.entry f).holders.set p true }
  | upgrade (p : Port) (shared : (s.entry f).state = .shared) (sole : (s.entry f).holders = onePort p)
      (alone : (s.entry f).queue = []) : Rehold s f { s.entry f with state := .priv }
  | downgrade (priv : (s.entry f).state = .priv) : Rehold s f { s.entry f with state := .shared }
  | pin (used : inUse (s.entry f).state = true) (alone : (s.entry f).queue = []) :
      Rehold s f { s.entry f with pinned := true }
  | unpin : Rehold s f { s.entry f with pinned := false }
  | strip (unused : scrubbable (s.entry f).state = true) :
      Rehold s f { s.entry f with holders := noPorts }

/-- A state in which a claim has joined the tail of a frame's queue (R25). -/
def State.joined (s : State) (f : Nat) (w : WaitRec) : State :=
  (s.takeRecord w.port).putEntry f { s.entry f with queue := (s.entry f).queue ++ [w] }

/-- The moves. `C` stands for what only some invariants know: that a port whose holding count is 0 holds
nothing. -/
inductive Move (C : Prop) : State → State → Prop where
  | quiet {s t : State} (h : Quiet s t) : Move C s t
  | put {s : State} {f : Nat} {e : Entry} (h : Rehold s f e) : Move C s (s.putEntry f e)
  | advance {s : State} (forced : Bool) (f : Nat) : Move C s (s.advance forced f)
  | enqueue {s : State} {f : Nat} {w : WaitRec} (online : (s.unit w.port).online = true)
      (waits : claimCase (s.entry f) w.port w.mode = .wait) (sound : (s.entry f).state ≠ .poisoned)
      (single : waitsIn (s.entry f).queue w.port = false) (pool : s.poolFree ≠ 0)
      (limit : (s.unit w.port).waiting < 8) :
      Move C s (if (s.entry f).queue.isEmpty then (State.joined s f w).advance false f else State.joined s f w)
  | withdraw {s : State} {f : Nat} {p : Port} (waits : waitsIn (s.entry f).queue p = true) :
      Move C s (s.withdraw f p)
  | leave {s : State} (f : Nat) (p : Port) : Move C s ((s.leave f p).1.afterLeaving false f)
  | clear {s : State} {f : Nat} {p : Port} (origin : Origin) (notify : Option Port)
      (used : inUse (s.entry f).state = true) (sole : (s.entry f).holders = onePort p)
      (room : s.scrubQueue.length < 16) :
      Move C s (State.toScrub ((s.leave f p).1.dropRecall f) f origin notify)
  | scrub {s : State} {f : Nat} (origin : Origin) (notify : Option Port)
      (unused : (s.entry f).state = .uninitialized ∨
        (scrubbable (s.entry f).state = true ∧ (s.entry f).holders = noPorts))
      (room : s.scrubQueue.length < 16) : Move C s (State.toScrub s f origin notify)
  | free {s : State} {f : Nat} (quarantined : (s.entry f).state = .quarantined) :
      Move C s ((s.putEntry f { s.entry f with state := .free }).advance false f)
  | finish {s : State} {d : ScrubEntry} {rest : List ScrubEntry} {u : State}
      (front : s.scrubQueue = d :: rest)
      (told : Quiet (({ s with scrubQueue := rest } : State).putEntry d.frame
        { s.entry d.frame with state := .free }) u) :
      Move C s (u.advance false d.frame)
  | quarantine {s : State} {f : Nat} {p : Port} (priv : (s.entry f).state = .priv)
      (held : (s.entry f).holders.get p = true) : Move C s (s.quarantine f p)
  | poison {s : State} {f : Nat} (accessor : Option Port) (used : inUse (s.entry f).state = true) :
      Move C s (s.poison f accessor)
  | expire {s : State} {f : Nat} {i : Fin 8} {r : RecallRec} (active : s.recallOf f = some (i, r))
      (named : r.frame = f) : Move C s (s.expireRecall r)
  | forget {s : State} {p : Port} {u : PortUnit} (waits : ∀ f, waitsIn (s.entry f).queue p = false)
      (holds : C → ∀ f, (s.entry f).holders.get p = false) (waiting : u.waiting = 0)
      (maps : u.map0 = [] ∧ u.map1 = []) : Move C s (s.setUnit p u)

abbrev Moves (C : Prop) : State → State → Prop := Relation.ReflTransGen (Move C)

theorem Moves.keeps {C : Prop} {I : State → Prop} (h : ∀ s t, Move C s t → I s → I t) {s t : State}
    (run : Moves C s t) (hs : I s) : I t := by
  induction run with
  | refl => exact hs
  | tail _ move ih => exact h _ _ move ih

theorem Moves.one {C : Prop} {s t : State} (h : Move C s t) : Moves C s t := Relation.ReflTransGen.single h

theorem Moves.quiet {C : Prop} {s t : State} (h : Quiet s t) : Moves C s t := Moves.one (.quiet h)

theorem Moves.next {C : Prop} {s t u : State} (h : Moves C s t) (k : Move C t u) : Moves C s u := h.tail k

theorem Moves.thenQuiet {C : Prop} {s t u : State} (h : Moves C s t) (k : Quiet t u) : Moves C s u :=
  h.tail (.quiet k)

end Sys2Proof.Proofs
end

section
/-! PROOFS. Every command but the two resets and the release of RSTn is a run of moves. -/

namespace Sys2Proof.Proofs
set_option Elab.async false

open Sys2Proof.Machine Sys2Proof.Safety Sys2Proof.Laws

/-- Advancement of a frame that is neither FREE nor in use does nothing (R34 step 1). -/
theorem advance_of_unused {s : State} {f : Nat} (forced : Bool) (free : (s.entry f).state ≠ .free)
    (unused : inUse (s.entry f).state = false) : s.advance forced f = s := by
  unfold State.advance
  cases hn : (s.entry f).queue.length with
  | zero => rfl
  | succ n =>
    rw [State.advanceFuel]
    split
    · rfl
    · split
      all_goals first
        | rfl
        | (rename_i hst _; simp [hst, inUse] at free unused)
        | (rename_i hst; simp [hst, inUse] at free unused)

section Commands

variable {C : Prop}

/-! ### Claims -/

theorem quiet_reply (s : State) (p : Port) (c : ResultCode) (r1 r2 r3 : Word) :
    Quiet s (s.reply p c r1 r2 r3) := quiet_setResults s p _

theorem quiet_refuse (s : State) (p : Port) (c : ResultCode) : Quiet s (s.refuse p c) :=
  quiet_setResults s p _

/-- What a claim that is taken at once does to the entry is a change without waiters to serve, or a
downgrade. -/
theorem rehold_takenEntry {s : State} {f : Nat} {p : Port} {m : Mode} {o : ClaimOutcome}
    (online : (s.unit p).online = true) (h : claimCase (s.entry f) p m = .take o) :
    Rehold s f (takenEntry (s.entry f) p m o) := by
  unfold claimCase at h
  cases hst : (s.entry f).state <;> simp only [hst] at h
  case free =>
    cases h
    exact .hold p m online hst
  case priv =>
    split at h
    · cases m <;> cases h
      · exact .same
      · exact .downgrade hst
    · split at h <;> cases h
  case shared =>
    cases m <;> dsimp only at h
    case priv =>
      split at h
      next sole =>
        cases h
        exact .upgrade p hst sole.1 sole.2
      next => split at h <;> cases h
    case shared =>
      split at h
      · cases h
        exact .same
      · split at h
        next alone =>
          cases h
          exact .join p online hst (by simpa using alone)
        next => cases h
  all_goals cases h

theorem moves_takeClaim {s : State} {p : Port} {f : Nat} {m : Mode} (tag : BitVec 8) {o : ClaimOutcome}
    (online : (s.unit p).online = true) (h : claimCase (s.entry f) p m = .take o) :
    Moves C s (s.takeClaim p f m tag o) := by
  have taken : Moves C s (s.putEntry f (takenEntry (s.entry f) p m o)) :=
    Moves.one (.put (rehold_takenEntry online h))
  unfold State.takeClaim State.claimReply
  dsimp only
  split
  · exact (taken.next (.advance false f)).thenQuiet (quiet_reply _ _ _ _ _ _)
  · exact taken.thenQuiet (quiet_reply _ _ _ _ _ _)

theorem moves_scrubbed {s t : State} {f : Nat} (origin : Origin) (notify : Option Port)
    (h : Moves C s (State.toScrub t f origin notify)) : Moves C s (t.appendScrub f origin notify) := by
  have eq : t.appendScrub f origin notify =
      if t.scrubQueue.isEmpty then (State.toScrub t f origin notify).postScrub f 0
      else State.toScrub t f origin notify := rfl
  rw [eq]
  split
  · exact h.thenQuiet (quiet_postScrub _ _ _)
  · exact h

theorem appendScrub_entry (s : State) (f : Nat) (origin : Origin) (notify : Option Port) (g : Nat) :
    (s.appendScrub f origin notify).entry g =
      if g = f then { s.entry f with state := .scrubbing, pinned := false } else s.entry g := by
  have eq : s.appendScrub f origin notify =
      if s.scrubQueue.isEmpty then (State.toScrub s f origin notify).postScrub f 0
      else State.toScrub s f origin notify := rfl
  have queued : (State.toScrub s f origin notify).entry g =
      if g = f then { s.entry f with state := .scrubbing, pinned := false } else s.entry g :=
    entry_putEntry s f g { s.entry f with state := .scrubbing, pinned := false }
  rw [eq]
  split
  · rw [(quiet_postScrub _ _ _).entry, queued]
  · exact queued

theorem joined_entry (s : State) (f : Nat) (w : WaitRec) :
    (State.joined s f w).entry f = { s.entry f with queue := (s.entry f).queue ++ [w] } :=
  entry_putEntry_same _ f _

theorem moves_queueClaim {s : State} {p : Port} {f : Nat} {m : Mode} (tag : BitVec 8)
    (online : (s.unit p).online = true) (waits : claimCase (s.entry f) p m = .wait)
    (sound : (s.entry f).state ≠ .poisoned) (single : waitsIn (s.entry f).queue p = false)
    (pool : s.poolFree ≠ 0) (limit : (s.unit p).waiting < 8) :
    Moves C s (s.queueClaim p f m tag) := by
  let w : WaitRec := ⟨p, m, tag, s.arrival⟩
  let s2 := State.joined s f w
  let promoted := (s.entry f).state == .uninitialized && scrubRoom s
  let s3 := if promoted then s2.appendScrub f .promotion none else s2
  let s4 := if (s.entry f).queue.isEmpty then s3.advance false f else s3
  have queued : Moves C s (if (s.entry f).queue.isEmpty then s2.advance false f else s2) :=
    Moves.one (.enqueue (w := w) online waits sound single pool limit)
  suffices h : Moves C s s4 from h.thenQuiet (quiet_reply s4 _ _ _ _ _)
  by_cases hp : promoted = true
  · obtain ⟨hst, room⟩ : (s.entry f).state = .uninitialized ∧ s.scrubQueue.length < 16 := by
      simpa [promoted, scrubRoom] using hp
    have hs2 : (s2.entry f).state = .uninitialized := by rw [joined_entry]; exact hst
    have idle : (if (s.entry f).queue.isEmpty then s2.advance false f else s2) = s2 := by
      split
      · exact advance_of_unused _ (by simp [hs2]) (by simp [hs2, inUse])
      · rfl
    rw [idle] at queued
    have promotion : Moves C s s3 := by
      simp only [s3, if_pos hp]
      exact moves_scrubbed _ _ (queued.next (.scrub _ _ (.inl hs2) room))
    have hs3 : (s3.entry f).state = .scrubbing := by
      simp only [s3, if_pos hp]
      rw [appendScrub_entry, if_pos rfl]
    show Moves C s (if (s.entry f).queue.isEmpty then s3.advance false f else s3)
    rw [advance_of_unused _ (by simp [hs3]) (by simp [hs3, inUse]), ite_self]
    exact promotion
  · simp only [s4, s3, if_neg hp]
    exact queued

theorem moves_ownClaim {s : State} {p : Port} (a : Nat × Mode × BitVec 8)
    (online : (s.unit p).online = true) : Moves C s (ownClaim p a s) := by
  obtain ⟨f, m, tag⟩ := a
  simp only [ownClaim]
  split
  · exact .quiet (quiet_refuse _ _ _)
  next sound =>
    split
    · exact .quiet (quiet_refuse _ _ _)
    next single =>
      split
      next o taken => exact moves_takeClaim tag online taken
      · exact .quiet (quiet_refuse _ _ _)
      next waits =>
        split
        · exact .quiet (quiet_refuse _ _ _)
        next pool =>
          split
          · exact .quiet (quiet_refuse _ _ _)
          next limit =>
            exact moves_queueClaim tag online waits sound (by simpa using single) pool (by omega)

theorem moves_ownCancel (p : Port) (f : Nat) (s : State) : Moves C s (ownCancel p f s) := by
  simp only [ownCancel]
  split
  · exact .quiet (quiet_refuse _ _ _)
  next w hw =>
    have waits : waitsIn (s.entry f).queue p = true :=
      (waitsIn_iff _ _).2 ⟨w, List.mem_of_find?_eq_some hw, by simpa using List.find?_some hw⟩
    exact (Moves.one (.withdraw waits)).thenQuiet (quiet_reply _ _ _ _ _ _)

theorem moves_ownRelease (p : Port) (a : Nat × Bool) (s : State) : Moves C s (ownRelease p a s) := by
  obtain ⟨f, clear⟩ := a
  simp only [ownRelease]
  split
  · exact .quiet (quiet_refuse _ _ _)
  · split
    · exact .quiet (quiet_refuse _ _ _)
    next room =>
      refine Moves.thenQuiet ?_ (quiet_reply _ _ _ _ _ _)
      split
      next clears =>
        obtain ⟨⟨_, used⟩, sole⟩ : (clear = true ∧ inUse (s.entry f).state = true) ∧
            (s.entry f).holders = onePort p := by simpa [clearsFrame] using clears
        have room : s.scrubQueue.length < 16 := by simpa [clears, scrubRoom] using room
        exact moves_scrubbed _ _ (Moves.one (.clear _ _ used sole room))
      next => exact Moves.one (.leave f p)

/-! ### Maps, parameters and the token -/

theorem quiet_setMapFor {s : State} (p : Port) {q : Port} (c : Context) (page f : Nat) (write : Bool)
    (online : (s.unit q).online = true) : Quiet s (s.setMapFor p q c page f write) := by
  unfold State.setMapFor
  split
  · exact quiet_refuse _ _ _
  · exact (quiet_writeMap (.inl online)).trans (quiet_reply _ _ _ _ _ _)

theorem quiet_clearMapFor (s : State) (p q : Port) (c : Context) (page : Nat) :
    Quiet s (s.clearMapFor p q c page) := (quiet_clearMap s q c page).trans (quiet_reply _ _ _ _ _ _)

theorem quiet_renewLease (s : State) : Quiet s s.renewLease := Quiet.of_same rfl rfl rfl rfl rfl rfl

theorem quiet_ownSelectContext (p : Port) (c : Context) (s : State) :
    Quiet s (ownSelectContext p c s) :=
  (Quiet.of_setUnit (s := s) (p := p) (u := { s.unit p with context := c })
    (UnitQuiet.of_same rfl rfl rfl rfl)).trans (quiet_reply _ _ _ _ _ _)

theorem quiet_ownMapClearAll (p : Port) (c : Context) (s : State) : Quiet s (ownMapClearAll p c s) :=
  (Quiet.of_setUnit (s := s) (p := p) (u := (s.unit p).setMap c [])
    (unitQuiet_setMap _ c (fun _ _ => rfl))).trans (quiet_reply _ _ _ _ _ _)

theorem quiet_ownAcquireAuthority (p : Port) (a : Unit) (s : State) :
    Quiet s (ownAcquireAuthority p a s) := by
  unfold ownAcquireAuthority
  split
  · exact ((Quiet.of_same (s := s) (t := { s with token := some p }) rfl rfl rfl rfl rfl rfl).trans
      (quiet_renewLease _)).trans (quiet_reply _ _ _ _ _ _)
  · split
    · exact (quiet_renewLease s).trans (quiet_reply _ _ _ _ _ _)
    · exact quiet_refuse _ _ _

theorem quiet_ownSetParameter (p : Port) (a : Nat × Nat) (s : State) :
    Quiet s (ownSetParameter p a s) := by
  obtain ⟨id, value⟩ := a
  simp only [ownSetParameter]
  split
  · exact quiet_refuse _ _ _
  · split
    · exact (Quiet.of_same (s := s) (t := { s with recallTimeout := value }) rfl rfl rfl rfl rfl rfl).trans
        (quiet_reply _ _ _ _ _ _)
    · exact (Quiet.of_same (s := s) (t := { s with leaseParam := value }) rfl rfl rfl rfl rfl rfl).trans
        (quiet_reply _ _ _ _ _ _)

theorem quiet_ownMapSetFor (p : Port) (a : Port × Context × Nat × Nat × Bool) (s : State) :
    Quiet s (ownMapSetFor p a s) := by
  obtain ⟨q, c, page, f, write⟩ := a
  simp only [ownMapSetFor]
  split
  · exact quiet_refuse _ _ _
  next online => exact quiet_setMapFor p c page f write (by simpa using online)

theorem quiet_ownMapClearFor (p : Port) (a : Port × Context × Nat) (s : State) :
    Quiet s (ownMapClearFor p a s) := by
  obtain ⟨q, c, page⟩ := a
  simp only [ownMapClearFor]
  split
  · exact quiet_refuse _ _ _
  · exact quiet_clearMapFor _ _ _ _ _

theorem quiet_ownAttach (p : Port) (a : Unit) (s : State) : Quiet s (ownAttach p a s) := by
  unfold ownAttach
  split
  · exact quiet_refuse _ _ _
  · exact (Quiet.of_setUnit (s := s) (p := p) (u := { s.unit p with online := true })
      ⟨rfl, nofun, nofun⟩).trans (quiet_reply _ _ _ _ _ _)

theorem quiet_ownReleaseAuthority (p : Port) (s : State) :
    Quiet s (if s.token = some p then ({ s with token := none } : State).reply p .ok 0 0 0
      else s.refuse p .denied) := by
  split
  · exact (Quiet.of_same (s := s) (t := { s with token := none }) rfl rfl rfl rfl rfl rfl).trans
      (quiet_reply _ _ _ _ _ _)
  · exact quiet_refuse _ _ _

/-! ### The authority's commands on frames -/

theorem moves_ownAssign (p : Port) (a : Nat × Port × Mode) (s : State) :
    Moves C s (ownAssign p a s) := by
  obtain ⟨f, q, m⟩ := a
  simp only [ownAssign]
  split
  · exact .quiet (quiet_refuse _ _ _)
  next online =>
    split
    · exact .quiet (quiet_refuse _ _ _)
    next free =>
      exact ((((Moves.one (.put (.hold q m (by simpa using online) (by simpa using free)))).thenQuiet
        (quiet_post _ _ _)).next (.advance false f)).thenQuiet (quiet_reply _ _ _ _ _ _))

theorem moves_ownForceRelease (p : Port) (a : Nat × Port) (s : State) :
    Moves C s (ownForceRelease p a s) := by
  obtain ⟨f, q⟩ := a
  simp only [ownForceRelease]
  split
  · exact .quiet (quiet_refuse _ _ _)
  · exact ((Moves.quiet (quiet_post s q (.revoked f .authority))).next (.leave f q)).thenQuiet
      (quiet_reply _ _ _ _ _ _)

theorem moves_ownPin (p : Port) (f : Nat) (s : State) : Moves C s (ownPin p f s) := by
  simp only [ownPin]
  split
  · exact .quiet (quiet_refuse _ _ _)
  next used =>
    split
    · exact .quiet (quiet_refuse _ _ _)
    next alone =>
      exact (Moves.one (.put (.pin (by simpa using used) (by simpa using alone)))).thenQuiet
        (quiet_reply _ _ _ _ _ _)

theorem moves_ownUnpin (p : Port) (f : Nat) (s : State) : Moves C s (ownUnpin p f s) :=
  (Moves.one (.put .unpin)).thenQuiet (quiet_reply _ _ _ _ _ _)

theorem moves_ownScrub (p : Port) (f : Nat) (s : State) : Moves C s (ownScrub p f s) := by
  simp only [ownScrub]
  split
  · exact .quiet (quiet_refuse _ _ _)
  next unused =>
    split
    · exact .quiet (quiet_refuse _ _ _)
    next room =>
      have unused : scrubbable (s.entry f).state = true := by simpa using unused
      let s1 := s.putEntry f { s.entry f with holders := noPorts }
      have stripped : Quiet s1 (s1.postSet (s.entry f).holders (.revoked f .scrub)) := quiet_postSet _ _ _
      have entry : (s1.postSet (s.entry f).holders (.revoked f .scrub)).entry f =
          { s.entry f with holders := noPorts } := by
        rw [postSet_entry, entry_putEntry_same]
      have room : (s1.postSet (s.entry f).holders (.revoked f .scrub)).scrubQueue.length < 16 := by
        have frames := congrArg List.length stripped.scrubFrames
        simp only [List.length_map] at frames
        rw [frames]
        simpa [scrubRoom, s1] using room
      refine Moves.thenQuiet (moves_scrubbed _ _ ?_) (quiet_reply _ _ _ _ _ _)
      exact ((Moves.one (.put (.strip unused))).thenQuiet stripped).next
        (.scrub _ _ (.inr (by rw [entry]; exact ⟨unused, rfl⟩)) room)

theorem moves_ownUnquarantine (p : Port) (f : Nat) (s : State) :
    Moves C s (ownUnquarantine p f s) := by
  simp only [ownUnquarantine]
  split
  · exact .quiet (quiet_refuse _ _ _)
  next quarantined =>
    exact (Moves.one (.free (by simpa using quarantined))).thenQuiet (quiet_reply _ _ _ _ _ _)

/-! ### Departures -/

theorem nodup_frames {s : State} (h : Directory.wf s.dir) (has : Nat × Entry → Bool) :
    ((s.dir.filter has).map Prod.fst).Nodup := by
  have rising : ((s.dir.filter has).map Prod.fst).Pairwise (· < ·) :=
    List.pairwise_map.2 (h.1.filter has)
  exact rising.imp (fun lt => Nat.ne_of_lt lt)

/-- A frame listed in canonical form has the listed entry. -/
theorem entry_of_mem_dir {s : State} (h : Directory.wf s.dir) {c : Nat × Entry} (hc : c ∈ s.dir) :
    s.entry c.1 = c.2 := by
  rw [State.entry, (sparse_find_iff_mem h.1 c.1 c.2).2 hc]
  rfl

/-- A port whose holding count is right and 0 holds nothing (R163). -/
theorem holders_of_holding_zero {s : State} (h : Directory.wf s.dir) (counts : HoldingCountsRight s)
    (p : Port) (zero : (s.unit p).holding = 0) (f : Nat) : (s.entry f).holders.get p = false := by
  by_contra held
  have held : (s.entry f).holders.get p = true := by simpa using held
  have listed : (f, s.entry f) ∈ s.dir := by
    refine mem_dir_of_ne_reset (fun reset => ?_)
    rw [reset] at held
    cases p <;> cases held
  have none : s.dir.countP (fun c => c.2.holders.get p) = 0 := (counts p).symm.trans zero
  exact List.countP_eq_zero.1 none _ listed held

theorem moves_foldl_withdraw {p : Port} (l : List Nat) (nodup : l.Nodup) {s : State}
    (waits : ∀ f ∈ l, waitsIn (s.entry f).queue p = true) :
    Moves C s (l.foldl (fun t f => t.withdraw f p) s) := by
  induction l generalizing s with
  | nil => exact .refl
  | cons f rest ih =>
    obtain ⟨hf, nodup⟩ := List.nodup_cons.1 nodup
    refine (Moves.one (.withdraw (waits f (by simp)))).trans (ih nodup (fun g hg => ?_))
    rw [othersKept_withdraw s f p g (fun e => hf (e ▸ hg))]
    exact waits g (by simp [hg])

theorem moves_withdrawAll {s : State} (h : Directory.wf s.dir) (p : Port) :
    Moves C s (s.withdrawAll p) := by
  refine (Moves.quiet (Quiet.of_same (s := s) (t := s.nextDraw) rfl rfl rfl rfl rfl rfl)).trans
    (moves_foldl_withdraw _ ((freeOrder_perm s _).nodup_iff.2 (nodup_frames h _)) (fun f hf => ?_))
  obtain ⟨c, hc, rfl⟩ := List.mem_map.1 ((freeOrder_perm s _).mem_iff.1 hf)
  obtain ⟨listed, waits⟩ := List.mem_filter.1 hc
  rw [nextDraw_entry, entry_of_mem_dir h listed]
  exact waits

theorem moves_giveUp {s : State} {f : Nat} {p : Port} (held : (s.entry f).holders.get p = true) :
    Moves C s (s.giveUp f p) := by
  unfold State.giveUp
  split
  next priv => exact Moves.one (.quarantine priv held)
  next => exact Moves.one (.leave f p)

theorem moves_foldl_giveUp {p : Port} (l : List Nat) (nodup : l.Nodup) {s : State}
    (held : ∀ f ∈ l, (s.entry f).holders.get p = true) :
    Moves C s (l.foldl (fun t f => t.giveUp f p) s) := by
  induction l generalizing s with
  | nil => exact .refl
  | cons f rest ih =>
    obtain ⟨hf, nodup⟩ := List.nodup_cons.1 nodup
    refine (moves_giveUp (held f (by simp))).trans (ih nodup (fun g hg => ?_))
    rw [othersKept_giveUp s f p g (fun e => hf (e ▸ hg))]
    exact held g (by simp [hg])

theorem moves_giveUpAll {s : State} (h : Directory.wf s.dir) (p : Port) :
    Moves C s (s.giveUpAll p) := by
  refine (Moves.quiet (Quiet.of_same (s := s) (t := s.nextDraw) rfl rfl rfl rfl rfl rfl)).trans
    (moves_foldl_giveUp _ ((freeOrder_perm s _).nodup_iff.2 (nodup_frames h _)) (fun f hf => ?_))
  obtain ⟨c, hc, rfl⟩ := List.mem_map.1 ((freeOrder_perm s _).mem_iff.1 hf)
  obtain ⟨listed, held⟩ := List.mem_filter.1 hc
  rw [nextDraw_entry, entry_of_mem_dir h listed]
  exact held

theorem edit_keeps_directory {B : Scope} {s t : State} (h : Edit B s t) (hs : Directory.wf s.dir) :
    Directory.wf t.dir := by
  cases h with
  | entry f e _ _ => exact directory_wf_putDirectory f e hs
  | rest _ h =>
    rw [h]
    exact hs
  | _ => exact hs

theorem directory_wf_withdrawAll {s : State} (h : Directory.wf s.dir) (p : Port) :
    Directory.wf (s.withdrawAll p).dir :=
  (edits_withdrawAll (B := Scope.any) s p).keeps (I := fun u => Directory.wf u.dir)
    (fun _ _ edit hu => edit_keeps_directory edit hu) h

/-- A port comes to hold nothing by its claims' withdrawal. -/
theorem withdraw_notHolding {s : State} {g : Nat} {p : Port} (f : Nat)
    (h : (s.entry g).holders.get p = false) : ((s.withdraw f p).entry g).holders.get p = false := by
  by_cases hg : g = f
  · subst hg
    refine ((withdraw_split s g p).2.absent ⟨?_, ?_⟩).1
    · rw [returnRecord_entry, entry_putEntry_same]
      exact h
    · rw [returnRecord_entry, entry_putEntry_same]
      exact waitsIn_filter_ne _ p
  · rw [othersKept_withdraw s f p g hg]
    exact h

theorem foldl_withdraw_notHolding {g : Nat} {p : Port} (l : List Nat) {s : State}
    (h : (s.entry g).holders.get p = false) :
    ((l.foldl (fun t f => t.withdraw f p) s).entry g).holders.get p = false := by
  induction l generalizing s with
  | nil => exact h
  | cons f rest ih => exact ih (withdraw_notHolding f h)

theorem withdrawAll_notHolding {s : State} {g : Nat} {p : Port}
    (h : (s.entry g).holders.get p = false) : ((s.withdrawAll p).entry g).holders.get p = false :=
  foldl_withdraw_notHolding _ h

/-- A port reset: claims, holdings, and the rest, whereupon the port is absent everywhere (R170). -/
theorem moves_depart {s : State} (h : Directory.wf s.dir) (p : Port) : Moves C s (s.depart p) := by
  let s2 := (s.withdrawAll p).giveUpAll p
  have gone : Moves C s s2 := (moves_withdrawAll h p).trans (moves_giveUpAll (directory_wf_withdrawAll h p) p)
  have rest : Quiet s2 (State.departed s p) :=
    ((quiet_freeTokenOf s2 p).trans (quiet_dropNotify _ p)).trans (quiet_discardAnswer _ p)
  have absent : ∀ f, Absent (State.departed s p) f p := fun f => by
    rw [Absent, rest.entry]
    exact giveUpAll_absent (withdrawAll_notWaiting s p) f
  exact (gone.thenQuiet rest).next
    (.forget (fun f => (absent f).2) (fun _ f => (absent f).1) rfl ⟨rfl, rfl⟩)

/-- A DETACH: claims and the rest, for a port that holds nothing (R168). -/
theorem moves_detachPort {s : State} (h : Directory.wf s.dir) (p : Port)
    (holds : C → ∀ f, (s.entry f).holders.get p = false) : Moves C s (s.detachPort p) := by
  let t := (((s.withdrawAll p).freeTokenOf p).dropNotify p).clearMaps p
  have cleared : Quiet (s.withdrawAll p) t :=
    ((quiet_freeTokenOf _ p).trans (quiet_dropNotify _ p)).trans
      (Quiet.of_setUnit ⟨rfl, id, fun _ _ => ⟨rfl, rfl⟩⟩)
  have kept : NoNewcomer s t :=
    (noNewcomer_withdrawAll s p).trans (NoNewcomer.of_entry cleared.entry)
  have waits : ∀ f, waitsIn (t.entry f).queue p = false := fun f => by
    rw [cleared.entry]
    exact withdrawAll_notWaiting s p f
  have absent : C → ∀ f, (t.entry f).holders.get p = false := fun c f => by
    rw [cleared.entry]
    exact withdrawAll_notHolding (holds c f)
  have maps : (t.unit p).map0 = [] ∧ (t.unit p).map1 = [] := by
    simp [t, State.clearMaps]
  exact ((moves_withdrawAll h p).thenQuiet cleared).next (.forget waits absent rfl maps)

theorem moves_ownDetach {s : State} (h : Directory.wf s.dir) (p : Port) (a : Unit)
    (counted : C → (s.unit p).holding = 0 → ∀ f, (s.entry f).holders.get p = false) :
    Moves C s (ownDetach p a s) := by
  simp only [ownDetach]
  split
  · exact .quiet (quiet_reply _ _ _ _ _ _)
  next none =>
    exact (moves_detachPort h p (fun c => counted c (by omega))).thenQuiet (quiet_reply _ _ _ _ _ _)

/-! ### The memory port's events -/

theorem moves_expire {s : State} {f : Nat} :
    ∃ t, exec (.recallDeadline f) s = .next t ∧ Moves C s t := by
  simp only [exec, execRecallDeadline]
  split
  · exact ⟨_, rfl, .refl⟩
  next i r active =>
    split
    next due => exact ⟨_, rfl, Moves.one (.expire active due.1)⟩
    · exact ⟨_, rfl, .refl⟩

theorem moves_endUncorrectable (s : State) (r : Request) (discard : Bool) (b : BurstResult)
    (place : Nat) : Moves C s (s.endUncorrectable r discard b place) := by
  let s0 : State := { s with memory := b.memory }
  let s1 := if discard then s0
    else s0.post r.port (.fault (r.addr + 4 * place) r.context r.access r.burst .uncorrectable)
  let s2 := if inUse (s1.entry r.frame).state then
      s1.poison r.frame (if discard then none else some r.port) else s1
  let s3 := if discard then s2.postHeld r.port else s2.answerBus r.port true b.delivered
  have faulted : Quiet s s1 := by
    have performed : Quiet s s0 := Quiet.of_same rfl rfl rfl rfl rfl rfl
    refine performed.trans ?_
    simp only [s1]
    split
    · exact Quiet.refl _
    · exact quiet_post _ _ _
  have poisoned : Moves C s1 s2 := by
    simp only [s2]
    split
    next used => exact Moves.one (.poison _ used)
    · exact .refl
  have told : Quiet s2 s3 := by
    simp only [s3]
    split
    · exact quiet_postHeld _ _
    · exact quiet_answerBus _ _ _ _
  exact Moves.thenQuiet ((Moves.quiet faulted).trans poisoned) (told.trans (quiet_afterService s3))

theorem quiet_endPerformed (s : State) (r : Request) (discard : Bool) (b : BurstResult) :
    Quiet s (s.endPerformed r discard b) := by
  have performed : Quiet s { s with memory := b.memory } := Quiet.of_same rfl rfl rfl rfl rfl rfl
  unfold State.endPerformed
  cases discard with
  | false => exact (performed.trans (quiet_answerBus _ _ _ _)).trans (quiet_afterService _)
  | true => exact (performed.trans (quiet_postHeld _ _)).trans (quiet_afterService _)

theorem moves_windowRequestComplete (s : State) (upsets : List Bits39) :
    ∃ t, exec (.windowRequestComplete upsets) s = .next t ∧ Moves C s t := by
  simp only [exec, execWindowRequestComplete]
  split
  · refine ⟨_, rfl, ?_⟩
    simp only [State.endWindow]
    split
    · exact moves_endUncorrectable _ _ _ _ _
    · exact .quiet (quiet_endPerformed _ _ _ _)
  · exact ⟨_, rfl, .refl⟩

theorem moves_uncorrectableError (s : State) (upsets : List Bits39) :
    ∃ t, exec (.uncorrectableError upsets) s = .next t ∧ Moves C s t := by
  simp only [exec, execUncorrectableError]
  split
  · split
    · exact ⟨_, rfl, moves_endUncorrectable _ _ _ _ _⟩
    · exact ⟨_, rfl, .refl⟩
  · exact ⟨_, rfl, .refl⟩

theorem moves_sweep {s : State} (empty : s.scrubQueue = []) : Moves C s s.sweep := by
  unfold State.sweep
  split
  · split
    next f hf =>
      exact moves_scrubbed _ _ (Moves.one (.scrub _ _ (.inl (lowestInState_some hf).2) (by simp [empty])))
    · exact .refl
  · exact .refl

theorem moves_completeScrub (s : State) : Moves C s s.completeScrub := by
  unfold State.completeScrub
  split
  · exact .refl
  next d rest front =>
    let s2 := ({ s with scrubQueue := rest } : State).putEntry d.frame
      { s.entry d.frame with state := .free }
    let s3 := match d.notify with
      | some p => s2.post p (.scrubDone d.frame)
      | none => s2
    have told : Quiet s2 s3 := by
      simp only [s3]
      split
      · exact quiet_post _ _ _
      · exact Quiet.refl _
    have finished : Moves C s (s3.advance false d.frame) := Moves.one (.finish front told)
    show Moves C s (match (s3.advance false d.frame).scrubQueue with
      | [] => (s3.advance false d.frame).sweep
      | n :: _ => (s3.advance false d.frame).postScrub n.frame 0)
    split
    next empty => exact finished.trans (moves_sweep empty)
    next => exact finished.thenQuiet (quiet_postScrub _ _ _)

theorem moves_scrubBurstComplete (s : State) :
    ∃ t, exec .scrubBurstComplete s = .next t ∧ Moves C s t := by
  simp only [exec, execScrubBurstComplete]
  split
  next q _ =>
    let s1 : State := { s with memory := scrubPlaces q (List.range 8) s.memory }
    have written : Moves C s s1 := .quiet (Quiet.of_same rfl rfl rfl rfl rfl rfl)
    refine ⟨_, rfl, Moves.thenQuiet ?_ (quiet_afterService _)⟩
    split
    · exact written.thenQuiet (quiet_postScrub s1 _ _)
    · exact written.trans (moves_completeScrub s1)
  · exact ⟨_, rfl, .refl⟩

theorem quiet_windowAccess (s : State) (p : Port) (access : Access) (addr : BitVec 21) (burst : Nat)
    (enables : BitVec 4) (data : List Word) :
    ∃ t, exec (.windowAccess p access addr burst enables data) s = .next t ∧ Quiet s t := by
  simp only [exec, execWindowAccess]
  split
  · split
    · exact ⟨_, rfl, quiet_answerBus _ _ _ _⟩
    · split
      · exact ⟨_, rfl, (quiet_post _ _ _).trans (quiet_answerBus _ _ _ _)⟩
      · split
        · exact ⟨_, rfl, Quiet.of_setUnit (UnitQuiet.of_same rfl rfl rfl rfl)⟩
        next m _ _ =>
          have waits : Quiet s (s.setUnit p { s.unit p with
              request := some (requestOf p (s.unit p) m access addr burst enables data),
              answer := none }) := Quiet.of_setUnit (UnitQuiet.of_same rfl rfl rfl rfl)
          exact ⟨_, rfl, waits.trans (quiet_posted _)⟩
  · exact ⟨_, rfl, Quiet.refl s⟩

theorem quiet_timers (s : State) {i : Instr} (h : i = .refreshTimerExpiry ∨ i = .refreshComplete ∨
    i = .authorityLeaseExpiry) : ∃ t, exec i s = .next t ∧ Quiet s t := by
  rcases h with rfl | rfl | rfl
  · simp only [exec, execRefreshTimerExpiry]
    split
    · split
      · exact ⟨_, rfl, Quiet.of_same rfl rfl rfl rfl rfl rfl⟩
      · exact ⟨_, rfl, Quiet.of_same rfl rfl rfl rfl rfl rfl⟩
    · exact ⟨_, rfl, Quiet.refl s⟩
  · simp only [exec, execRefreshComplete]
    split
    · exact ⟨_, rfl, quiet_afterService s⟩
    · exact ⟨_, rfl, Quiet.refl s⟩
  · simp only [exec, execAuthorityLeaseExpiry]
    split
    · exact ⟨_, rfl, Quiet.refl s⟩
    next p _ =>
      split
      · exact ⟨_, rfl, (Quiet.of_same (s := s) (t := { s with token := none }) rfl rfl rfl rfl rfl
          rfl).trans (quiet_post _ p _)⟩
      · exact ⟨_, rfl, Quiet.refl s⟩

/-! ### Every command -/

theorem quiet_writeControl (s : State) (p : Port) {effect : PortUnit → PortUnit}
    (h : UnitQuiet (s.unit p) (effect (s.unit p))) : Quiet s (s.writeControl p effect) := by
  unfold State.writeControl
  split
  · exact Quiet.of_setUnit (h.trans (UnitQuiet.of_same rfl rfl rfl rfl))
  · exact Quiet.refl s

theorem quiet_controlWrites (s : State) (p : Port) {i : Instr} (h : (∃ code, i = .badCommand p code) ∨
    (∃ v, i = .portStatusWrite p v) ∨ (∃ v, i = .intEnableWrite p v) ∨ (∃ v, i = .eventPop p v) ∨
    (∃ n v, i = .registerWrite p n v) ∨ ∃ a addr n, i = .controlAccessError p a addr n) :
    ∃ t, exec i s = .next t ∧ Quiet s t := by
  rcases h with ⟨code, rfl⟩ | ⟨v, rfl⟩ | ⟨v, rfl⟩ | ⟨v, rfl⟩ | ⟨n, v, rfl⟩ | ⟨a, addr, n, rfl⟩
  · simp only [exec, execBadCommand]
    split
    · exact ⟨_, rfl, (quiet_takeCode s p code).trans (quiet_refuse _ _ _)⟩
    · exact ⟨_, rfl, Quiet.refl s⟩
  · refine ⟨_, rfl, quiet_writeControl s p ?_⟩
    split <;> exact UnitQuiet.of_same rfl rfl rfl rfl
  · exact ⟨_, rfl, quiet_writeControl s p (UnitQuiet.of_same rfl rfl rfl rfl)⟩
  · exact ⟨_, rfl, quiet_writeControl s p (UnitQuiet.of_same rfl rfl rfl rfl)⟩
  · simp only [exec, execRegisterWrite]
    split
    · exact ⟨_, rfl, quiet_writeControl s p (UnitQuiet.of_same rfl rfl rfl rfl)⟩
    · exact ⟨_, rfl, Quiet.refl s⟩
  · simp only [exec, execControlAccessError]
    split
    · exact ⟨_, rfl, quiet_answerBus _ _ _ _⟩
    · exact ⟨_, rfl, Quiet.refl s⟩

theorem moves_issue {α : Type} {s : State} {p : Port} {code : Word} {off : Bool} {args : Option α}
    {owner : α → State → State}
    (h : ∀ a, args = some a → (off = false → ((s.takeCode p code).unit p).online = true) →
      Moves C (s.takeCode p code) (owner a (s.takeCode p code))) :
    Moves C s (s.issue p code off args owner) := by
  have taken := Moves.quiet (C := C) (quiet_takeCode s p code)
  unfold State.issue
  split
  · dsimp only
    split
    · exact taken.thenQuiet (quiet_refuse _ _ _)
    next admitted =>
      split
      · exact taken.thenQuiet (quiet_refuse _ _ _)
      next a =>
        refine taken.trans (h a rfl (fun hoff => ?_))
        rw [State.takeCode, setUnit_unit_same]
        simpa [hoff] using admitted
  · exact .refl

theorem moves_issueAuthority {α : Type} {s : State} {p : Port} {code : Word} {args : Option α}
    {owner : α → State → State}
    (h : ∀ a, Moves C (s.takeCode p code) (owner a (s.takeCode p code))) :
    Moves C s (s.issueAuthority p code args owner) := by
  have taken := Moves.quiet (C := C) (quiet_takeCode s p code)
  unfold State.issueAuthority
  split
  · dsimp only
    split
    · exact taken.thenQuiet (quiet_refuse _ _ _)
    · split
      · exact taken.thenQuiet (quiet_refuse _ _ _)
      · split
        · exact (taken.thenQuiet (quiet_refuse _ _ _)).thenQuiet (quiet_renewLease _)
        next a => exact Moves.thenQuiet (taken.trans (h a)) (quiet_renewLease _)
  · exact .refl

theorem takeCode_holding (s : State) (p : Port) (code : Word) :
    ((s.takeCode p code).unit p).holding = (s.unit p).holding := by
  rw [State.takeCode, setUnit_unit_same]

/-- Every command but part reset and the release of RSTn answers next, by a run of moves. -/
theorem exec_moves (i : Instr) {s : State} (hwf : Directory.wf s.dir)
    (counted : C → HoldingCountsRight s) (hpart : i ≠ .partReset)
    (hrelease : ∀ strap, i ≠ .rstnRelease strap) : ∃ t, exec i s = .next t ∧ Moves C s t := by
  have quietly : (∃ t, exec i s = .next t ∧ Quiet s t) → ∃ t, exec i s = .next t ∧ Moves C s t :=
    fun ⟨t, ht, q⟩ => ⟨t, ht, .quiet q⟩
  have unheld : ∀ p, C → (s.unit p).holding = 0 → ∀ f, (s.entry f).holders.get p = false :=
    fun p c => holders_of_holding_zero hwf (counted c) p
  cases i with
  | partReset => exact absurd rfl hpart
  | rstnRelease strap => exact absurd rfl (hrelease strap)
  | portReset p =>
    simp only [exec, execPortReset]
    split
    · exact ⟨_, rfl, .quiet (Quiet.of_setUnit (UnitQuiet.of_same rfl rfl rfl rfl))⟩
    · exact ⟨_, rfl, moves_depart hwf p⟩
  | prstnRelease p => exact ⟨_, rfl, .quiet (Quiet.of_setUnit (UnitQuiet.of_same rfl rfl rfl rfl))⟩
  | attach p => exact ⟨_, rfl, moves_issue fun a _ _ => .quiet (quiet_ownAttach p a _)⟩
  | detach p =>
    exact ⟨_, rfl, moves_issue fun a _ _ => moves_ownDetach (s := s.takeCode p 0x02) hwf p a
      (fun c zero => unheld p c ((takeCode_holding s p 0x02).symm.trans zero))⟩
  | probeFrame p => exact ⟨_, rfl, moves_issue fun _ _ _ => .quiet (quiet_reply _ _ _ _ _ _)⟩
  | claim p => exact ⟨_, rfl, moves_issue fun a _ online => moves_ownClaim a (online rfl)⟩
  | cancel p => exact ⟨_, rfl, moves_issue fun f _ _ => moves_ownCancel p f _⟩
  | release p => exact ⟨_, rfl, moves_issue fun a _ _ => moves_ownRelease p a _⟩
  | selectContext p =>
    exact ⟨_, rfl, moves_issue fun c _ _ => .quiet (quiet_ownSelectContext p c _)⟩
  | mapSet p =>
    exact ⟨_, rfl, moves_issue fun a _ online => .quiet (quiet_setMapFor p _ _ _ _ (online rfl))⟩
  | mapClear p => exact ⟨_, rfl, moves_issue fun a _ _ => .quiet (quiet_clearMapFor _ p p _ _)⟩
  | mapClearAll p =>
    exact ⟨_, rfl, moves_issue fun c _ _ => .quiet (quiet_ownMapClearAll p c _)⟩
  | probePage p => exact ⟨_, rfl, moves_issue fun _ _ _ => .quiet (quiet_reply _ _ _ _ _ _)⟩
  | acquireAuthority p =>
    exact ⟨_, rfl, moves_issue fun a _ _ => .quiet (quiet_ownAcquireAuthority p a _)⟩
  | renewAuthority p =>
    exact ⟨_, rfl, moves_issueAuthority fun _ => .quiet (quiet_reply _ _ _ _ _ _)⟩
  | releaseAuthority p =>
    exact ⟨_, rfl, moves_issue fun _ _ _ => .quiet (quiet_ownReleaseAuthority p _)⟩
  | assign p => exact ⟨_, rfl, moves_issueAuthority fun a => moves_ownAssign p a _⟩
  | forceRelease p => exact ⟨_, rfl, moves_issueAuthority fun a => moves_ownForceRelease p a _⟩
  | pin p => exact ⟨_, rfl, moves_issueAuthority fun f => moves_ownPin p f _⟩
  | unpin p => exact ⟨_, rfl, moves_issueAuthority fun f => moves_ownUnpin p f _⟩
  | scrub p => exact ⟨_, rfl, moves_issueAuthority fun f => moves_ownScrub p f _⟩
  | unquarantine p => exact ⟨_, rfl, moves_issueAuthority fun f => moves_ownUnquarantine p f _⟩
  | mapSetFor p =>
    exact ⟨_, rfl, moves_issueAuthority fun a => .quiet (quiet_ownMapSetFor p a _)⟩
  | mapClearFor p =>
    exact ⟨_, rfl, moves_issueAuthority fun a => .quiet (quiet_ownMapClearFor p a _)⟩
  | setParameter p =>
    exact ⟨_, rfl, moves_issueAuthority fun a => .quiet (quiet_ownSetParameter p a _)⟩
  | badCommand p code => exact quietly (quiet_controlWrites s p (.inl ⟨code, rfl⟩))
  | portStatusWrite p v => exact quietly (quiet_controlWrites s p (.inr (.inl ⟨v, rfl⟩)))
  | intEnableWrite p v => exact quietly (quiet_controlWrites s p (.inr (.inr (.inl ⟨v, rfl⟩))))
  | eventPop p v => exact quietly (quiet_controlWrites s p (.inr (.inr (.inr (.inl ⟨v, rfl⟩)))))
  | registerWrite p n v =>
    exact quietly (quiet_controlWrites s p (.inr (.inr (.inr (.inr (.inl ⟨n, v, rfl⟩))))))
  | controlAccessError p a addr n =>
    exact quietly (quiet_controlWrites s p (.inr (.inr (.inr (.inr (.inr ⟨a, addr, n, rfl⟩))))))
  | windowAccess p a addr n en data => exact quietly (quiet_windowAccess s p a addr n en data)
  | windowRequestComplete upsets => exact moves_windowRequestComplete s upsets
  | uncorrectableError upsets => exact moves_uncorrectableError s upsets
  | scrubBurstComplete => exact moves_scrubBurstComplete s
  | refreshTimerExpiry => exact quietly (quiet_timers s (.inl rfl))
  | refreshComplete => exact quietly (quiet_timers s (.inr (.inl rfl)))
  | recallDeadline f => exact moves_expire
  | authorityLeaseExpiry => exact quietly (quiet_timers s (.inr (.inr rfl)))

/-- What a step can do: moves, a part reset, the release of RSTn and its sweep. -/
theorem step_moves {s t : State} (hwf : Directory.wf s.dir) (counted : C → HoldingCountsRight s)
    (h : step s = .next t) :
    Moves C s t ∨ (∃ rest, exec .partReset { s with pending := rest } = .next t) ∨
    (∃ strap rest, s.rstAsserted = true ∧
      t = (State.released { s with pending := rest } strap).appendScrub 0 .sweep none) := by
  unfold step at h
  split at h
  · cases h
    left
    unfold State.tick
    dsimp only
    split
    · exact .quiet (Quiet.of_same rfl rfl rfl rfl rfl rfl)
    · exact .quiet (Quiet.of_same rfl rfl rfl rfl rfl rfl)
  next i rest _ =>
    by_cases hpart : i = .partReset
    · exact .inr (.inl ⟨rest, hpart ▸ h⟩)
    have dequeued : Moves C s { s with pending := rest } :=
      .quiet (Quiet.of_same rfl rfl rfl rfl rfl rfl)
    by_cases hrelease : ∃ strap, i = .rstnRelease strap
    · obtain ⟨strap, rfl⟩ := hrelease
      simp only [exec, execRstnRelease] at h
      split at h
      next hrst =>
        cases h
        exact .inr (.inr ⟨strap, rest, hrst, rfl⟩)
      next =>
        cases h
        exact .inl dequeued
    · obtain ⟨u, hu, run⟩ := exec_moves (C := C) i (s := { s with pending := rest }) hwf counted hpart
        (fun strap e => hrelease ⟨strap, e⟩)
      rw [hu] at h
      cases h
      exact .inl (dequeued.trans run)

end Commands

end Sys2Proof.Proofs
end

section
/-! PROOFS. The ledger of the wait records (R19 to R22): a port's waiting count is the number of its records in
the wait queues and of those on their way back to the pool, move by move. -/

namespace Sys2Proof.Proofs
set_option Elab.async false

open Sys2Proof.Machine Sys2Proof.Safety Sys2Proof.Laws

/-! ### The ledger -/

/-- The records of a port in a list. -/
def recordsOf (p : Port) (q : List WaitRec) : Nat := q.countP (fun w => w.port == p)

/-- The records of a port in the wait queues. -/
def claimsOf (p : Port) (d : Directory) : Nat := dirSum (fun e => recordsOf p e.queue) d

/-- The records in use are those in the queues and those of a list, which have left their queue and are not
back in the pool yet. -/
structure Ledger (owed : List WaitRec) (s : State) : Prop where
  wf : Directory.wf s.dir
  single : ∀ f, ((s.entry f).queue.map WaitRec.port).Nodup
  waiting : ∀ p, (s.unit p).waiting = claimsOf p s.dir + recordsOf p owed
  limit : ∀ p, (s.unit p).waiting ≤ 8
  pool : s.poolFree + (allPorts.map (fun p => (s.unit p).waiting)).sum = 32

theorem Ledger.of_same {owed : List WaitRec} {s t : State} (h : Ledger owed s) (dir : t.dir = s.dir)
    (poolFree : t.poolFree = s.poolFree) (waiting : ∀ p, (t.unit p).waiting = (s.unit p).waiting) :
    Ledger owed t := by
  have entry : ∀ f, t.entry f = s.entry f := fun f => by rw [State.entry, State.entry, dir]
  obtain ⟨hwf, hsingle, hwaiting, hlimit, hpool⟩ := h
  refine ⟨dir ▸ hwf, fun f => entry f ▸ hsingle f, fun p => ?_, fun p => waiting p ▸ hlimit p, ?_⟩
  · rw [waiting, dir, hwaiting]
  · simpa only [poolFree, waiting] using hpool

theorem ledger_putEntry {owed owed' : List WaitRec} {s : State} {f : Nat} {e : Entry} (h : Ledger owed s)
    (single : (e.queue.map WaitRec.port).Nodup)
    (balance : (e.queue ++ owed').Perm ((s.entry f).queue ++ owed)) : Ledger owed' (s.putEntry f e) := by
  have waiting : ∀ p, ((s.putEntry f e).unit p).waiting = (s.unit p).waiting := fun p => by
    rw [putEntry_unit]
  refine ⟨directory_wf_putDirectory f e h.wf, fun g => ?_, fun p => ?_, fun p => waiting p ▸ h.limit p, ?_⟩
  · rw [entry_putEntry]
    split
    · exact single
    · exact h.single g
  · obtain ⟨rest, before, after⟩ := dirSum_putDirectory (g := fun e => recordsOf p e.queue) rfl h.wf f e
    have counts : recordsOf p e.queue + recordsOf p owed' =
        recordsOf p (s.entry f).queue + recordsOf p owed := by
      have count := balance.countP_eq (fun w => w.port == p)
      rwa [List.countP_append, List.countP_append] at count
    have before' : claimsOf p s.dir = rest + recordsOf p (s.entry f).queue := before
    have after' : claimsOf p (s.putEntry f e).dir = rest + recordsOf p e.queue := after
    rw [waiting, h.waiting, before', after']
    omega
  · simpa only [putEntry_poolFree, waiting] using h.pool

theorem ledger_sameQueue {owed : List WaitRec} {s : State} {f : Nat} {e : Entry} (h : Ledger owed s)
    (queue : e.queue = (s.entry f).queue := by rfl) : Ledger owed (s.putEntry f e) :=
  ledger_putEntry h (queue ▸ h.single f) (by rw [queue])

theorem ledger_quiet {owed : List WaitRec} {s t : State} (h : Ledger owed s) (q : Quiet s t) :
    Ledger owed t := h.of_same q.dir q.poolFree (fun p => (q.unit p).waiting)

/-- The waiting counts of all ports sum one more where one port's is one more. -/
theorem sum_waiting_set (s : State) (p : Port) (u : PortUnit) :
    (allPorts.map (fun q => ((s.setUnit p u).unit q).waiting)).sum + (s.unit p).waiting =
      (allPorts.map (fun q => (s.unit q).waiting)).sum + u.waiting := by
  cases p <;> simp [allPorts, setUnit_unit] <;> omega

theorem recordsOf_cons (p : Port) (w : WaitRec) (l : List WaitRec) :
    recordsOf p (w :: l) = recordsOf p l + if w.port = p then 1 else 0 := by
  simp [recordsOf, List.countP_cons]

theorem ledger_returnRecord {w : WaitRec} {owed : List WaitRec} {s : State} (h : Ledger (w :: owed) s) :
    Ledger owed (s.returnRecord w.port) := by
  have taken : (s.unit w.port).waiting = claimsOf w.port s.dir + (recordsOf w.port owed + 1) := by
    rw [h.waiting, recordsOf_cons, if_pos rfl]
  have unit : ∀ p, ((s.returnRecord w.port).unit p).waiting =
      if p = w.port then (s.unit w.port).waiting - 1 else (s.unit p).waiting := fun p => by
    have moved : (s.returnRecord w.port).unit p = (s.setUnit w.port
        { s.unit w.port with waiting := (s.unit w.port).waiting - 1 }).unit p := rfl
    rw [moved, setUnit_unit]
    split <;> rfl
  refine ⟨h.wf, h.single, fun p => ?_, fun p => ?_, ?_⟩
  · rw [unit]
    split
    next hp =>
      subst hp
      show _ = claimsOf w.port s.dir + _
      omega
    next hp =>
      show _ = claimsOf p s.dir + _
      rw [h.waiting, recordsOf_cons, if_neg (Ne.symm hp)]
      rfl
  · rw [unit]
    have limit := h.limit p
    have limit' := h.limit w.port
    split <;> omega
  · have full := h.pool
    have free : (s.returnRecord w.port).poolFree = s.poolFree + 1 := rfl
    have sum : (allPorts.map (fun q => ((s.returnRecord w.port).unit q).waiting)).sum +
        (s.unit w.port).waiting =
        (allPorts.map (fun q => (s.unit q).waiting)).sum + ((s.unit w.port).waiting - 1) :=
      sum_waiting_set s w.port { s.unit w.port with waiting := (s.unit w.port).waiting - 1 }
    omega

theorem ledger_takeRecord {w : WaitRec} {s : State} (h : Ledger [] s) (pool : s.poolFree ≠ 0)
    (limit : (s.unit w.port).waiting < 8) : Ledger [w] (s.takeRecord w.port) := by
  have unit : ∀ p, ((s.takeRecord w.port).unit p).waiting =
      if p = w.port then (s.unit w.port).waiting + 1 else (s.unit p).waiting := fun p => by
    have moved : (s.takeRecord w.port).unit p = (s.setUnit w.port
        { s.unit w.port with waiting := (s.unit w.port).waiting + 1 }).unit p := rfl
    rw [moved, setUnit_unit]
    split <;> rfl
  refine ⟨h.wf, h.single, fun p => ?_, fun p => ?_, ?_⟩
  · rw [unit, recordsOf_cons]
    split
    next hp =>
      subst hp
      rw [h.waiting, if_pos rfl]
      rfl
    next hp =>
      rw [h.waiting, if_neg (Ne.symm hp)]
      rfl
  · rw [unit]
    have others := h.limit p
    split <;> omega
  · have full := h.pool
    have free : (s.takeRecord w.port).poolFree = s.poolFree - 1 := rfl
    have sum : (allPorts.map (fun q => ((s.takeRecord w.port).unit q).waiting)).sum +
        (s.unit w.port).waiting =
        (allPorts.map (fun q => (s.unit q).waiting)).sum + ((s.unit w.port).waiting + 1) :=
      sum_waiting_set s w.port { s.unit w.port with waiting := (s.unit w.port).waiting + 1 }
    omega

/-! ### The operations of the directory -/

section Operations

variable {owed : List WaitRec} {s : State}

theorem ledger_startRecall (h : Ledger owed s) (f : Nat) (i : Fin 8) : Ledger owed (s.startRecall f i) := by
  unfold State.startRecall
  dsimp only
  split
  · exact h
  next w t _ =>
    refine ledger_quiet ?_ (quiet_postSet _ _ _)
    exact ledger_sameQueue (s := { s with recalls := _ }) (h.of_same rfl rfl (fun _ => rfl)) rfl

theorem ledger_deferRecall (h : Ledger owed s) (f : Nat) : Ledger owed (s.deferRecall f) := by
  unfold State.deferRecall
  dsimp only
  split
  · exact h
  · exact ledger_sameQueue (s := { s with deferred := _ }) (h.of_same rfl rfl (fun _ => rfl)) rfl

theorem ledger_ensureRecall (h : Ledger owed s) (f : Nat) : Ledger owed (s.ensureRecall f) := by
  unfold State.ensureRecall
  split
  · split
    · exact ledger_startRecall h f _
    · exact ledger_deferRecall h f
  · exact h
  · exact h

theorem ledger_feedDeferred (i : Fin 8) (l : List Deferred) {s : State} (h : Ledger owed s) :
    Ledger owed (State.feedDeferred i l s) := by
  induction l generalizing s with
  | nil => exact h.of_same rfl rfl (fun _ => rfl)
  | cons d rest ih =>
    rw [State.feedDeferred]
    split
    · exact ledger_startRecall (s := { s with deferred := rest }) (h.of_same rfl rfl (fun _ => rfl)) _ _
    · exact ih (ledger_sameQueue h)

theorem ledger_dropRecall (h : Ledger owed s) (f : Nat) : Ledger owed (s.dropRecall f) := by
  unfold State.dropRecall
  dsimp only
  split
  · exact h
  · exact ledger_sameQueue (s := { s with deferred := _ }) (h.of_same rfl rfl (fun _ => rfl)) rfl
  · exact ledger_feedDeferred _ _
      (ledger_sameQueue (s := { s with recalls := _ }) (h.of_same rfl rfl (fun _ => rfl)) rfl)

theorem ledger_leaveToRelease (h : Ledger owed s) (f : Nat) (p : Port) :
    Ledger owed (s.leaveToRelease f p).1 := by
  unfold State.leaveToRelease
  split
  · exact h
  · split
    · dsimp only
      split
      · exact ledger_dropRecall h f
      · exact h.of_same rfl rfl (fun _ => rfl)
    · exact h

/-- A grant takes the head's record out of the queue and returns it (R36). -/
theorem ledger_grantHead {f : Nat} {w : WaitRec} {t : List WaitRec} (forced upgraded : Bool)
    (h : Ledger [] s) (hq : (s.entry f).queue = w :: t) :
    Ledger [] (s.grantHead f w forced upgraded) := by
  have single := h.single f
  rw [hq, List.map_cons] at single
  have dequeued : Ledger [w] (s.putEntry f { s.entry f with queue := (s.entry f).queue.tail }) := by
    refine ledger_putEntry h ?_ ?_
    · rw [hq]
      exact (List.nodup_cons.1 single).2
    · rw [hq, List.append_nil]
      exact (List.perm_append_singleton w t)
  exact ledger_quiet (ledger_sameQueue (ledger_dropRecall (ledger_returnRecord dequeued) f))
    (quiet_post _ _ _)

theorem ledger_advanceFuel (forced : Bool) (f n : Nat) {s : State} (h : Ledger [] s) :
    Ledger [] (State.advanceFuel forced f n s) := by
  induction n generalizing s with
  | zero => exact h
  | succ n ih =>
    rw [State.advanceFuel]
    split
    · exact h
    next w t hq =>
      have grant : ∀ u, Ledger [] (State.advanceFuel forced f n (s.grantHead f w forced u)) :=
        fun u => ih (ledger_grantHead forced u h hq)
      split
      · exact grant _
      · exact grant _
      · exact grant _
      · split
        · exact grant _
        · split
          · exact h
          · exact ledger_ensureRecall h f
      · exact ledger_ensureRecall h f
      all_goals exact h

theorem ledger_advance (h : Ledger [] s) (forced : Bool) (f : Nat) : Ledger [] (s.advance forced f) :=
  ledger_advanceFuel forced f _ h

theorem ledger_afterLeaving (h : Ledger [] s) (forced : Bool) (f : Nat) :
    Ledger [] (s.afterLeaving forced f) := by
  unfold State.afterLeaving
  dsimp only
  split
  · split
    · exact ledger_advance (ledger_sameQueue h) _ _
    · exact ledger_advance h _ _
  · exact h

theorem ledger_leave (h : Ledger owed s) (f : Nat) (p : Port) : Ledger owed (s.leave f p).1 :=
  ledger_leaveToRelease (ledger_sameQueue h) f p

/-- The one record of a port in a queue, and the rest of the queue. -/
theorem perm_filter_port {q : List WaitRec} (single : (q.map WaitRec.port).Nodup) {w : WaitRec}
    (hw : w ∈ q) : (q.filter (fun x => x.port != w.port) ++ [w]).Perm q := by
  induction q with
  | nil => cases hw
  | cons x t ih =>
    obtain ⟨hx, single⟩ := List.nodup_cons.1 single
    by_cases hxw : x.port = w.port
    · have notLater : ∀ y ∈ t, y.port ≠ w.port := fun y hy e =>
        hx (List.mem_map.2 ⟨y, hy, e.trans hxw.symm⟩)
      have same : x = w := by
        rcases List.mem_cons.1 hw with rfl | later
        · rfl
        · exact absurd rfl (notLater w later)
      have rest : t.filter (fun x => x.port != w.port) = t :=
        List.filter_eq_self.2 (fun y hy => by simpa using notLater y hy)
      rw [List.filter_cons_of_neg (by simp [hxw]), rest, same]
      exact List.perm_append_singleton w t
    · have later : w ∈ t := (List.mem_cons.1 hw).resolve_left (fun e => hxw (by rw [e]))
      rw [List.filter_cons_of_pos (by simpa using hxw)]
      exact (ih single later).cons x

theorem ledger_withdraw {f : Nat} {p : Port} (h : Ledger [] s)
    (waits : waitsIn (s.entry f).queue p = true) : Ledger [] (s.withdraw f p) := by
  obtain ⟨w, hw, rfl⟩ := (waitsIn_iff _ _).1 waits
  let s1 := s.putEntry f
    { s.entry f with queue := (s.entry f).queue.filter (fun x => x.port != w.port) }
  have dequeued : Ledger [w] s1 := by
    refine ledger_putEntry h ?_ ?_
    · exact (h.single f).sublist (List.filter_sublist.map _)
    · rw [List.append_nil]
      exact perm_filter_port (h.single f) hw
  have returned := ledger_returnRecord dequeued
  unfold State.withdraw
  dsimp only
  split
  · exact ledger_advance (ledger_dropRecall returned f) _ _
  · exact returned

/-! ### Poisoning -/

theorem refuseWaiters_dir (f : Nat) (l : List WaitRec) (s : State) :
    (State.refuseWaiters f l s).dir = s.dir := by
  induction l generalizing s with
  | nil => rfl
  | cons w rest ih => exact ih _

theorem refuseWaiters_poolFree (f : Nat) (l : List WaitRec) (s : State) :
    (State.refuseWaiters f l s).poolFree = s.poolFree + l.length := by
  induction l generalizing s with
  | nil => rfl
  | cons w rest ih =>
    rw [State.refuseWaiters, ih, List.length_cons]
    show s.poolFree + 1 + rest.length = _
    omega

/-- A refusal of waiters changes the waiting counts alike whatever else the state holds. -/
theorem refuseWaiters_waiting (f : Nat) (l : List WaitRec) {s t : State}
    (same : ∀ p, (s.unit p).waiting = (t.unit p).waiting) (p : Port) :
    ((State.refuseWaiters f l s).unit p).waiting = ((State.refuseWaiters f l t).unit p).waiting := by
  induction l generalizing s t with
  | nil => exact same p
  | cons w rest ih =>
    have returned : ∀ u : State, ∀ q, (((u.returnRecord w.port).post w.port
        (.refused f w.tag)).unit q).waiting =
        if q = w.port then (u.unit w.port).waiting - 1 else (u.unit q).waiting := fun u q => by
      rw [(quiet_post (u.returnRecord w.port) w.port (.refused f w.tag)).unit q |>.waiting]
      have moved : (u.returnRecord w.port).unit q = (u.setUnit w.port
          { u.unit w.port with waiting := (u.unit w.port).waiting - 1 }).unit q := rfl
      rw [moved, setUnit_unit]
      split <;> rfl
    refine ih (fun q => ?_)
    rw [returned, returned, same, same]

theorem ledger_refuseWaiters (f : Nat) (l : List WaitRec) {s : State} (h : Ledger (l ++ owed) s) :
    Ledger owed (State.refuseWaiters f l s) := by
  induction l generalizing s with
  | nil => exact h
  | cons w rest ih => exact ih (ledger_quiet (ledger_returnRecord h) (quiet_post _ _ _))

/-- The records of a poisoned frame's waiters go back to the pool; that the queue is emptied after them and
not before makes no difference to the ledger (R50, R116). -/
theorem ledger_poison (h : Ledger [] s) (f : Nat) (accessor : Option Port) :
    Ledger [] (s.poison f accessor) := by
  let e := s.entry f
  let s1 := (s.putEntry f { e with state := .poisoned, pinned := false }).dropRecall f
  let told :=
    match accessor with
    | some p => e.holders.set p true
    | none => e.holders
  let s2 := s1.postSet told (.poisoned f)
  let s3 := State.refuseWaiters f e.queue s2
  let emptied : Entry := { s3.entry f with queue := [] }
  have before : Ledger [] s2 :=
    ledger_quiet (ledger_dropRecall (ledger_sameQueue h) f) (quiet_postSet _ _ _)
  have queue : (s2.entry f).queue = e.queue := by
    rw [postSet_entry, dropRecall_entry _ f f, entry_putEntry_same]
  have first : Ledger [] (State.refuseWaiters f e.queue (s2.putEntry f emptied)) := by
    refine ledger_refuseWaiters f e.queue (ledger_putEntry before List.nodup_nil ?_)
    rw [queue, List.append_nil]
    exact List.Perm.of_eq (List.nil_append _)
  refine first.of_same ?_ ?_ (fun p => ?_)
  · show putDirectory s3.dir f emptied = _
    rw [refuseWaiters_dir, refuseWaiters_dir]
    rfl
  · show s3.poolFree = _
    rw [refuseWaiters_poolFree, refuseWaiters_poolFree]
    rfl
  · show ((s3.putEntry f emptied).unit p).waiting = _
    rw [putEntry_unit]
    exact refuseWaiters_waiting f e.queue (fun q => by rw [putEntry_unit]) p

/-! ### The moves -/

theorem ledger_toScrub (h : Ledger owed s) (f : Nat) (origin : Origin) (notify : Option Port) :
    Ledger owed (State.toScrub s f origin notify) :=
  (ledger_sameQueue h (f := f) (e := { s.entry f with state := .scrubbing, pinned := false }) rfl).of_same
    rfl rfl (fun _ => rfl)

theorem ledger_joined {f : Nat} {w : WaitRec} (h : Ledger [] s)
    (single : waitsIn (s.entry f).queue w.port = false) (pool : s.poolFree ≠ 0)
    (limit : (s.unit w.port).waiting < 8) : Ledger [] (State.joined s f w) := by
  refine ledger_putEntry (ledger_takeRecord h pool limit) ?_ ?_
  · rw [List.map_append, List.nodup_append]
    refine ⟨h.single f, List.nodup_singleton _, fun a ha b hb e => ?_⟩
    obtain ⟨x, hx, rfl⟩ := List.mem_map.1 ha
    have hb : b = w.port := by simpa using hb
    exact (waitsIn_false_iff _ _).1 single x hx (e.trans hb)
  · rw [List.append_nil]
    exact List.Perm.refl _

/-- A port that waits on no frame has no record in the queues. -/
theorem claimsOf_eq_zero {p : Port} (h : Directory.wf s.dir)
    (waits : ∀ f, waitsIn (s.entry f).queue p = false) : claimsOf p s.dir = 0 := by
  refine List.sum_eq_zero (fun n hn => ?_)
  obtain ⟨c, hc, rfl⟩ := List.mem_map.1 hn
  have none := (waitsIn_false_iff _ _).1 (waits c.1)
  rw [entry_of_mem_dir h hc] at none
  exact List.countP_eq_zero.2 (fun w hw => by simpa using none w hw)

theorem rehold_queue {f : Nat} {e : Entry} (h : Rehold s f e) : e.queue = (s.entry f).queue := by
  cases h <;> rfl

theorem move_keeps_ledger {C : Prop} {s t : State} (move : Move C s t) (h : Ledger [] s) :
    Ledger [] t := by
  cases move with
  | quiet q => exact ledger_quiet h q
  | put e => exact ledger_sameQueue h (rehold_queue e)
  | advance forced f => exact ledger_advance h forced f
  | enqueue online waits sound single pool limit =>
    have joined := ledger_joined h single pool limit
    split
    · exact ledger_advance joined _ _
    · exact joined
  | withdraw waits => exact ledger_withdraw h waits
  | leave f p => exact ledger_afterLeaving (ledger_leave h f p) _ _
  | clear => exact ledger_toScrub (ledger_dropRecall (ledger_leave h _ _) _) _ _ _
  | scrub => exact ledger_toScrub h _ _ _
  | free => exact ledger_advance (ledger_sameQueue h) _ _
  | @finish d rest u front told =>
    have freed := ledger_sameQueue (s := { s with scrubQueue := rest }) (f := d.frame)
      (e := { s.entry d.frame with state := .free }) (h.of_same rfl rfl (fun _ => rfl)) rfl
    exact ledger_advance (ledger_quiet freed told) _ _
  | quarantine =>
    exact ledger_quiet (ledger_dropRecall (ledger_sameQueue h) _) (quiet_postSet _ _ _)
  | poison => exact ledger_poison h _ _
  | expire =>
    exact ledger_afterLeaving (ledger_dropRecall
      (ledger_quiet (ledger_sameQueue h) (quiet_postSet _ _ _)) _) _ _
  | @forget p u waits holds waiting maps =>
    have zero : (s.unit p).waiting = 0 := by
      rw [h.waiting, claimsOf_eq_zero h.wf waits]
      rfl
    refine h.of_same rfl rfl (fun q => ?_)
    rw [setUnit_unit]
    split
    next hq => rw [hq, waiting, zero]
    next => rfl

end Operations

/-! ### The statement -/

theorem ledger_iff {s : State} :
    Ledger [] s ↔ Directory.wf s.dir ∧ WaitCountsRight s := by
  constructor
  · rintro ⟨hwf, hsingle, hwaiting, hlimit, hpool⟩
    refine ⟨hwf, fun c hc => ?_, fun p => ⟨hlimit p, hwaiting p⟩, hpool⟩
    exact entry_of_mem_dir hwf hc ▸ hsingle c.1
  · rintro ⟨hwf, hsingle, hwaiting, hpool⟩
    refine ⟨hwf, fun f => ?_, fun p => (hwaiting p).2, fun p => (hwaiting p).1, hpool⟩
    by_cases reset : s.entry f = Entry.reset
    · rw [reset]
      exact List.nodup_nil
    · exact hsingle _ (mem_dir_of_ne_reset reset)

theorem ledger_partReset {s t : State} (h : exec .partReset s = .next t) : Ledger [] t := by
  cases h
  refine ⟨⟨List.Pairwise.nil, nofun⟩, fun f => ?_, fun p => ?_, fun p => ?_, rfl⟩
  · rw [entry_of_dir_nil rfl]
    exact List.nodup_nil
  all_goals
    rw [afterPartReset_unit]
  · rfl
  · exact Nat.zero_le _

theorem ledger_appendScrub {s : State} (h : Ledger [] s) (f : Nat) (origin : Origin)
    (notify : Option Port) : Ledger [] (s.appendScrub f origin notify) := by
  have queued := ledger_toScrub h f origin notify
  show Ledger [] (if s.scrubQueue.isEmpty then (State.toScrub s f origin notify).postScrub f 0
    else State.toScrub s f origin notify)
  split
  · exact ledger_quiet queued (quiet_postScrub _ _ _)
  · exact queued

/-- Settles O13: the ledger balances after every move. -/
theorem stepKeepsWaitCounts : Obligations.StepKeepsWaitCounts := by
  intro s t hs h
  have ledger := ledger_iff.2 hs
  refine ledger_iff.1 ?_
  rcases step_moves (C := False) hs.1 False.elim h with run | ⟨rest, hpart⟩ | ⟨strap, rest, _, rfl⟩
  · exact run.keeps (fun _ _ move => move_keeps_ledger move) ledger
  · exact ledger_partReset hpart
  · exact ledger_appendScrub (s := State.released { s with pending := rest } strap)
      (ledger.of_same rfl rfl (fun _ => rfl)) _ _ _

end Sys2Proof.Proofs
end

section
/-! PROOFS. The directory stays sound (R13, R14, R33, R123), move by move: while one frame is being worked on the
others are sound, and the work ends in a sound entry. -/

namespace Sys2Proof.Proofs
set_option Elab.async false

open Sys2Proof.Machine Sys2Proof.Safety Sys2Proof.Laws

/-! ### Entries -/

theorem entrySound_of_recallField {d e : Entry} (change : RecallFieldChange d e) (h : EntrySound d) :
    EntrySound e := by
  rw [change]
  exact h

theorem entrySound_unpinned {e : Entry} (h : EntrySound e) (unused : inUse e.state = false) :
    e.pinned = false := by
  by_contra pinned
  have used := h.2.1 (by simpa using pinned)
  simp [unused] at used

theorem entrySound_unpinned_of_queue {e : Entry} (h : EntrySound e) (waits : e.queue ≠ []) :
    e.pinned = false := by
  by_contra pinned
  exact waits (h.2.2 (.inr (.inr (by simpa using pinned))))

/-- Only a PRIVATE, SHARED or POISONED frame has holders (R13). -/
theorem entrySound_noHolders {e : Entry} (h : EntrySound e) (unused : inUse e.state = false)
    (sound : e.state ≠ .poisoned) : e.holders = noPorts := by
  obtain ⟨holders, _⟩ := h
  cases hst : e.state <;> simp only [hst] at holders
  case priv => simp [hst, inUse] at unused
  case shared => simp [hst, inUse] at unused
  case poisoned => exact absurd hst sound
  all_goals exact holders

theorem portSet_ne_noPorts {ps : PortSet} {p : Port} (h : ps.get p = true) : ps ≠ noPorts := by
  rintro rfl
  simp at h

theorem onePort_set_same (p : Port) : (onePort p).set p true = onePort p := by
  cases p <;> rfl

theorem onePort_set_false (p : Port) : (onePort p).set p false = noPorts := by
  cases p <;> rfl

/-- Fewer holders leave an entry sound, but for a frame in use that has none left. -/
theorem entrySound_fewerHolders {e : Entry} (h : EntrySound e) {left : PortSet}
    (fewer : ∀ p, left.get p = true → e.holders.get p = true) :
    EntrySound { e with holders := left } ∨ (inUse e.state = true ∧ left = noPorts) := by
  have none : e.holders = noPorts → left = noPorts := fun he => by
    refine perPort_ext (fun p => ?_)
    by_contra hp
    have := fewer p (by simpa using hp)
    simp [he] at this
  by_cases empty : left = noPorts
  · cases hu : inUse e.state with
    | true => exact .inr ⟨rfl, empty⟩
    | false =>
      refine .inl ⟨?_, h.2⟩
      cases hst : e.state <;> simp [hst, inUse, empty] at hu ⊢
  · refine .inl ⟨?_, h.2⟩
    have holders := h.1
    cases hst : e.state <;> simp only [hst] at holders ⊢
    case priv =>
      obtain ⟨q, hq⟩ := holders
      refine ⟨q, perPort_ext (fun p => ?_)⟩
      have only : ∀ p, left.get p = true → p = q := fun p hp => by
        simpa [hq, onePort_get] using fewer p hp
      rw [onePort_get]
      by_cases hpq : p = q
      · subst hpq
        by_contra hp
        refine empty (perPort_ext (fun r => ?_))
        by_contra hr
        have hr : left.get r = true := by simpa using hr
        rw [only r hr] at hr
        simp [hr] at hp
      · simpa [hpq] using fun hp => hpq (only p hp)
    case shared => exact empty
    all_goals exact none holders

/-! ### Advancement -/

/-- What advancement can start from: a sound entry, or a FREE one with waiters. -/
def Advanceable (e : Entry) : Prop :=
  EntrySound e ∨ (e.state = .free ∧ e.holders = noPorts ∧ e.pinned = false)

theorem advanceable_free {e : Entry} (free : e.state = .free) (h : Advanceable e) :
    e.holders = noPorts ∧ e.pinned = false := by
  rcases h with sound | ⟨_, holders, pinned⟩
  · exact ⟨entrySound_noHolders sound (by simp [free, inUse]) (by simp [free]),
      entrySound_unpinned sound (by simp [free, inUse])⟩
  · exact ⟨holders, pinned⟩

theorem advanceable_sound {e : Entry} (h : Advanceable e) (done : e.state ≠ .free ∨ e.queue = []) :
    EntrySound e := by
  rcases h with sound | ⟨free, holders, pinned⟩
  · exact sound
  · obtain used | empty := done
    · exact absurd free used
    · exact ⟨by simp [free, holders], by simp [pinned], fun _ => empty⟩

/-- The entry that a grant leaves, up to its recall field, is sound where R36 grants. -/
theorem entrySound_granted {e : Entry} {h : WaitRec} {t : List WaitRec} (hq : e.queue = h :: t)
    (adv : Advanceable e)
    (may : e.state = .free ∨ (e.state = .shared ∧ h.mode = .shared) ∨
      (e.state = .shared ∧ e.holders = onePort h.port)) :
    EntrySound { e with queue := e.queue.tail, holders := e.holders.set h.port true,
                        state := heldState h.mode } := by
  have pinned : e.pinned = false := by
    rcases adv with sound | ⟨_, _, pinned⟩
    · exact entrySound_unpinned_of_queue sound (by simp [hq])
    · exact pinned
  have member : e.holders.set h.port true ≠ noPorts :=
    portSet_ne_noPorts (p := h.port) (perPort_get_set_same _ _ _)
  refine ⟨?_, by simp [pinned], by simp [pinned, heldState]; cases h.mode <;> simp⟩
  cases hm : h.mode with
  | shared => exact member
  | priv =>
    refine ⟨h.port, ?_⟩
    rcases may with free | ⟨_, shared⟩ | ⟨_, sole⟩
    · show e.holders.set h.port true = onePort h.port
      rw [(advanceable_free free adv).1]
      rfl
    · simp [hm] at shared
    · show e.holders.set h.port true = onePort h.port
      rw [sole, onePort_set_same]

theorem entrySound_advanceFuel (forced : Bool) (f n : Nat) {s : State}
    (fuel : (s.entry f).queue.length ≤ n) (adv : Advanceable (s.entry f)) :
    EntrySound ((State.advanceFuel forced f n s).entry f) := by
  induction n generalizing s with
  | zero =>
    exact advanceable_sound adv (.inr (List.length_eq_zero_iff.1 (Nat.le_zero.1 fuel)))
  | succ n ih =>
    rw [State.advanceFuel]
    split
    next hq => exact advanceable_sound adv (.inr hq)
    next h t hq =>
      have grant : ∀ u, (s.entry f).state = .free ∨ ((s.entry f).state = .shared ∧ h.mode = .shared) ∨
          ((s.entry f).state = .shared ∧ (s.entry f).holders = onePort h.port) →
          EntrySound ((State.advanceFuel forced f n (s.grantHead f h forced u)).entry f) := by
        intro u may
        have granted := grantHead_entry s f h forced u f
        rw [if_pos rfl] at granted
        have sound := entrySound_of_recallField granted (entrySound_granted hq adv may)
        refine ih ?_ (.inl sound)
        rw [granted]
        simpa [hq] using fuel
      have kept : (s.entry f).state ≠ .free → EntrySound (s.entry f) :=
        fun used => advanceable_sound adv (.inl used)
      have ensured : (s.entry f).state ≠ .free → EntrySound ((s.ensureRecall f).entry f) :=
        fun used => entrySound_of_recallField (ensureRecall_entry s f f) (kept used)
      split
      next hst _ => exact grant _ (.inl hst)
      next hst hm => exact grant _ (.inr (.inl ⟨hst, hm⟩))
      next hst _ => exact grant _ (.inl hst)
      next hst _ =>
        split
        next sole => exact grant _ (.inr (.inr ⟨hst, sole⟩))
        · split
          · exact kept (by simp [hst])
          · exact ensured (by simp [hst])
      next hst => exact ensured (by simp [hst])
      all_goals
        next hst => exact kept (by simp [hst])

theorem entrySound_advance {s : State} {f : Nat} (forced : Bool) (adv : Advanceable (s.entry f)) :
    EntrySound ((s.advance forced f).entry f) := entrySound_advanceFuel forced f _ le_rfl adv

/-! ### The frames that are SCRUBBING -/

/-- The same frames are SCRUBBING, and the scrub queue names the same frames. -/
def SameScrubbing (s t : State) : Prop :=
  t.scrubQueue.map ScrubEntry.frame = s.scrubQueue.map ScrubEntry.frame ∧
    ∀ g, (t.entry g).state = .scrubbing ↔ (s.entry g).state = .scrubbing

theorem SameScrubbing.refl (s : State) : SameScrubbing s s := ⟨rfl, fun _ => Iff.rfl⟩

theorem SameScrubbing.trans {s t u : State} (h : SameScrubbing s t) (k : SameScrubbing t u) :
    SameScrubbing s u := ⟨k.1.trans h.1, fun g => (k.2 g).trans (h.2 g)⟩

theorem SameScrubbing.sound {s t : State} (h : SameScrubbing s t) (hs : ScrubQueueSound s) :
    ScrubQueueSound t := by
  obtain ⟨room, nodup, listed⟩ := hs
  obtain ⟨frames, states⟩ := h
  have length := congrArg List.length frames
  simp only [List.length_map] at length
  exact ⟨length ▸ room, frames ▸ nodup, fun g => by rw [states, listed, frames]⟩

theorem SameScrubbing.of_quiet {s t : State} (h : Quiet s t) : SameScrubbing s t :=
  ⟨h.scrubFrames, fun g => by rw [h.entry]⟩

theorem SameScrubbing.of_recallField {s t : State} (change : DirectoryChange s t)
    (h : ∀ g, RecallFieldChange (s.entry g) (t.entry g)) : SameScrubbing s t :=
  ⟨by rw [change.1], fun g => by rw [h g]⟩

theorem sameScrubbing_putEntry {s : State} {f : Nat} {e : Entry}
    (h : e.state = .scrubbing ↔ (s.entry f).state = .scrubbing) : SameScrubbing s (s.putEntry f e) := by
  refine ⟨rfl, fun g => ?_⟩
  rw [entry_putEntry]
  split
  next hg => exact hg ▸ h
  next => exact Iff.rfl

theorem sameScrubbing_grantHead {s : State} {f : Nat} (h : WaitRec) (forced upgraded : Bool)
    (resting : (s.entry f).state ≠ .scrubbing) : SameScrubbing s (s.grantHead f h forced upgraded) := by
  refine ⟨by rw [(directoryChange_grantHead s f h forced upgraded).1], fun g => ?_⟩
  rw [grantHead_entry s f h forced upgraded g]
  split
  next hg =>
    subst hg
    dsimp only
    cases h.mode <;> simp [heldState, resting]
  next => exact Iff.rfl

theorem sameScrubbing_advanceFuel (forced : Bool) (f n : Nat) (s : State) :
    SameScrubbing s (State.advanceFuel forced f n s) := by
  induction n generalizing s with
  | zero => exact SameScrubbing.refl s
  | succ n ih =>
    have ensured : SameScrubbing s (s.ensureRecall f) :=
      SameScrubbing.of_recallField (directoryChange_ensureRecall s f) (ensureRecall_entry s f)
    rw [State.advanceFuel]
    split
    · exact SameScrubbing.refl s
    next h t hq =>
      have grant : ∀ u, (s.entry f).state ≠ .scrubbing →
          SameScrubbing s (State.advanceFuel forced f n (s.grantHead f h forced u)) :=
        fun u resting => (sameScrubbing_grantHead h forced u resting).trans (ih _)
      split
      next hst _ => exact grant _ (by simp [hst])
      next hst _ => exact grant _ (by simp [hst])
      next hst _ => exact grant _ (by simp [hst])
      next hst _ =>
        split
        · exact grant _ (by simp [hst])
        · split
          · exact SameScrubbing.refl s
          · exact ensured
      · exact ensured
      all_goals exact SameScrubbing.refl s

theorem sameScrubbing_dropRecall (s : State) (f : Nat) : SameScrubbing s (s.dropRecall f) :=
  SameScrubbing.of_recallField (directoryChange_dropRecall s f) (dropRecall_entry s f)

/-! ### A sound directory but for one frame -/

/-- The entries of a directory are sound, and its scrub queue. -/
def DirSound (s : State) : Prop := (∀ g, EntrySound (s.entry g)) ∧ ScrubQueueSound s

/-- The same but for the entry of one frame. -/
def SoundBut (f : Nat) (s : State) : Prop := (∀ g, g ≠ f → EntrySound (s.entry g)) ∧ ScrubQueueSound s

theorem DirSound.but {s : State} (h : DirSound s) (f : Nat) : SoundBut f s := ⟨fun g _ => h.1 g, h.2⟩

theorem SoundBut.close {s : State} {f : Nat} (h : SoundBut f s) (e : EntrySound (s.entry f)) :
    DirSound s :=
  ⟨fun g => if hg : g = f then hg ▸ e else h.1 g hg, h.2⟩

theorem SoundBut.carry {s t : State} {f : Nat} (h : SoundBut f s) (others : OthersKept f s t)
    (scrub : SameScrubbing s t) : SoundBut f t :=
  ⟨fun g hg => entrySound_of_recallField (others g hg) (h.1 g hg), scrub.sound h.2⟩

theorem soundBut_putEntry {s : State} {f : Nat} {e : Entry} (h : SoundBut f s)
    (resting : e.state ≠ .scrubbing) (was : (s.entry f).state ≠ .scrubbing) :
    SoundBut f (s.putEntry f e) :=
  h.carry (othersKept_putEntry s f e) (sameScrubbing_putEntry (by simp [resting, was]))

theorem soundBut_sameState {s : State} {f : Nat} {e : Entry} (h : SoundBut f s)
    (state : e.state = (s.entry f).state) : SoundBut f (s.putEntry f e) :=
  h.carry (othersKept_putEntry s f e) (sameScrubbing_putEntry (by rw [state]))

theorem soundBut_quiet {s t : State} {f : Nat} (h : SoundBut f s) (q : Quiet s t) : SoundBut f t :=
  h.carry (fun g _ => by rw [q.entry]; rfl) (SameScrubbing.of_quiet q)

theorem soundBut_dropRecall {s : State} {f : Nat} (h : SoundBut f s) (g : Nat) :
    SoundBut f (s.dropRecall g) :=
  h.carry (OthersKept.of_recallField (dropRecall_entry s g)) (sameScrubbing_dropRecall s g)

theorem soundBut_leaveToRelease {s : State} {f : Nat} (h : SoundBut f s) (g : Nat) (p : Port) :
    SoundBut f (s.leaveToRelease g p).1 :=
  h.carry (OthersKept.of_recallField (leaveToRelease_entry s g p))
    (SameScrubbing.of_recallField (directoryChange_leaveToRelease s g p) (leaveToRelease_entry s g p))

theorem dirSound_quiet {s t : State} (h : DirSound s) (q : Quiet s t) : DirSound t :=
  ⟨fun g => q.entry g ▸ h.1 g, (SameScrubbing.of_quiet q).sound h.2⟩

theorem dirSound_advance {s : State} {f : Nat} (forced : Bool) (h : SoundBut f s)
    (adv : Advanceable (s.entry f)) : DirSound (s.advance forced f) :=
  (h.carry (othersKept_advance s forced f) (sameScrubbing_advanceFuel forced f _ s)).close
    (entrySound_advance forced adv)

theorem dirSound_afterLeaving {s : State} {f : Nat} (forced : Bool) (h : SoundBut f s)
    (left : EntrySound (s.entry f) ∨ (inUse (s.entry f).state = true ∧ (s.entry f).holders = noPorts)) :
    DirSound (s.afterLeaving forced f) := by
  unfold State.afterLeaving
  dsimp only
  split
  next used =>
    split
    next empty =>
      have none : (s.entry f).holders = noPorts := by simpa [setIsEmpty] using empty
      refine dirSound_advance forced (soundBut_putEntry h (by simp) ?_) (.inr ?_)
      · intro scrubbing
        simp [scrubbing, inUse] at used
      · rw [entry_putEntry_same]
        exact ⟨rfl, none, rfl⟩
    next holders =>
      refine dirSound_advance forced h (.inl (left.resolve_right (fun none => ?_)))
      simp [none.2, setIsEmpty] at holders
  next unused => exact h.close (left.resolve_right (fun used => unused used.1))

/-! ### The moves -/

section Moves

variable {s : State}

theorem entrySound_fewerThen {e d : Entry} (h : EntrySound e) {left : PortSet}
    (fewer : ∀ p, left.get p = true → e.holders.get p = true)
    (change : RecallFieldChange { e with holders := left } d) :
    EntrySound d ∨ (inUse d.state = true ∧ d.holders = noPorts) := by
  rcases entrySound_fewerHolders h fewer with sound | ⟨used, none⟩
  · exact .inl (entrySound_of_recallField change sound)
  · rw [change]
    exact .inr ⟨used, none⟩

theorem leave_entry (s : State) (f : Nat) (p : Port) :
    RecallFieldChange { s.entry f with holders := (s.entry f).holders.set p false }
      ((s.leave f p).1.entry f) := by
  have left := leaveToRelease_entry
    (s.putEntry f { s.entry f with holders := (s.entry f).holders.set p false }) f p f
  rw [entry_putEntry_same] at left
  exact left

theorem soundBut_leave (h : DirSound s) (f : Nat) (p : Port) : SoundBut f (s.leave f p).1 :=
  soundBut_leaveToRelease (soundBut_sameState (h.but f) (by rfl)) f p

theorem dirSound_leave (h : DirSound s) (f : Nat) (p : Port) :
    DirSound ((s.leave f p).1.afterLeaving false f) :=
  dirSound_afterLeaving false (soundBut_leave h f p)
    (entrySound_fewerThen (h.1 f) (fun _ => set_false_get) (leave_entry s f p))

/-- A frame that was not SCRUBBING joins the tail of the scrub queue (R124). -/
theorem dirSound_toScrub {f : Nat} (origin : Origin) (notify : Option Port) (h : SoundBut f s)
    (was : (s.entry f).state ≠ .scrubbing) (none : (s.entry f).holders = noPorts)
    (room : s.scrubQueue.length < 16) : DirSound (State.toScrub s f origin notify) := by
  obtain ⟨others, _, nodup, listed⟩ := h
  have entry : ∀ g, (State.toScrub s f origin notify).entry g =
      if g = f then { s.entry f with state := .scrubbing, pinned := false } else s.entry g :=
    fun g => entry_putEntry s f g { s.entry f with state := .scrubbing, pinned := false }
  have frames : (State.toScrub s f origin notify).scrubQueue.map ScrubEntry.frame =
      s.scrubQueue.map ScrubEntry.frame ++ [f] := by simp [State.toScrub]
  have fresh : f ∉ s.scrubQueue.map ScrubEntry.frame := fun hf => was ((listed f).2 hf)
  refine ⟨fun g => ?_, ?_, ?_, fun g => ?_⟩
  · rw [entry]
    split
    · exact ⟨none, by simp, by simp⟩
    next hg => exact others g hg
  · simpa [State.toScrub] using room
  · rw [frames, List.nodup_append]
    exact ⟨nodup, List.nodup_singleton f, fun a ha b hb e => fresh (by
      rw [List.mem_singleton] at hb
      exact hb ▸ e ▸ ha)⟩
  · rw [frames, List.mem_append, entry, List.mem_singleton]
    split
    next hg => simp [hg]
    next hg => simp [hg, listed]

theorem dirSound_put {f : Nat} {e : Entry} (h : DirSound s) (change : Rehold s f e) :
    DirSound (s.putEntry f e) := by
  have sound := h.1 f
  have put : EntrySound e → (e.state = .scrubbing ↔ (s.entry f).state = .scrubbing) →
      DirSound (s.putEntry f e) := fun he hst =>
    ((h.but f).carry (othersKept_putEntry s f e) (sameScrubbing_putEntry hst)).close
      (by rw [entry_putEntry_same]; exact he)
  cases change with
  | same => exact put sound Iff.rfl
  | hold p m online free =>
    have pinned := entrySound_unpinned sound (by simp [free, inUse])
    refine put ⟨?_, by simp [pinned], ?_⟩ (by cases m <;> simp [heldState, free])
    · cases m with
      | priv => exact ⟨p, rfl⟩
      | shared => exact portSet_ne_noPorts (onePort_get_same p)
    · exact fun _ => sound.2.2 (.inl free)
  | join p online shared alone =>
    refine put ⟨?_, sound.2.1, sound.2.2⟩ Iff.rfl
    dsimp only
    rw [shared]
    exact portSet_ne_noPorts (perPort_get_set_same _ p _)
  | upgrade p shared sole alone =>
    exact put ⟨⟨p, sole⟩, fun _ => rfl, fun _ => alone⟩ (by simp [shared])
  | downgrade priv =>
    obtain ⟨p, hp⟩ : ∃ p, (s.entry f).holders = onePort p := by
      have holders := sound.1
      rwa [priv] at holders
    refine put ⟨?_, fun _ => rfl, ?_⟩ (by simp [priv])
    · exact portSet_ne_noPorts (p := p) (by rw [hp]; exact onePort_get_same p)
    · exact fun hpin => sound.2.2 (.inr (.inr (by simpa using hpin)))
  | pin used alone => exact put ⟨sound.1, fun _ => used, fun _ => alone⟩ Iff.rfl
  | unpin =>
    refine put ⟨sound.1, by simp, fun hst => sound.2.2 ?_⟩ Iff.rfl
    rcases hst with free | poisoned | pinned
    · exact .inl free
    · exact .inr (.inl poisoned)
    · cases pinned
  | strip unused =>
    refine put ⟨?_, sound.2⟩ Iff.rfl
    dsimp only
    cases hst : (s.entry f).state <;> simp [hst, scrubbable] at unused ⊢

/-- A claim waits on a frame that is not FREE and not pinned (R23, R33). -/
theorem claimCase_wait_unpinned {e : Entry} (h : EntrySound e) {p : Port} {m : Mode}
    (waits : claimCase e p m = .wait) (sound : e.state ≠ .poisoned) :
    e.state ≠ .free ∧ e.pinned = false := by
  have unused := entrySound_unpinned h
  have alone := entrySound_unpinned_of_queue h
  cases hst : e.state <;> simp only [claimCase, hst] at waits unused
  case free => cases waits
  case poisoned => exact absurd hst sound
  case priv =>
    split at waits
    · cases m <;> cases waits
    · split at waits
      · cases waits
      next pinned => exact ⟨nofun, by simpa using pinned⟩
  case shared =>
    refine ⟨nofun, ?_⟩
    cases m <;> dsimp only at waits
    case priv =>
      split at waits
      · cases waits
      · split at waits
        · cases waits
        next pinned => simpa using pinned
    case shared =>
      split at waits
      · cases waits
      · split at waits
        · cases waits
        next queued => exact alone (by simpa using queued)
  all_goals exact ⟨nofun, unused rfl⟩

theorem dirSound_enqueue {f : Nat} {w : WaitRec} (h : DirSound s)
    (waits : claimCase (s.entry f) w.port w.mode = .wait) (sound : (s.entry f).state ≠ .poisoned) :
    DirSound (if (s.entry f).queue.isEmpty then (State.joined s f w).advance false f
      else State.joined s f w) := by
  obtain ⟨free, pinned⟩ := claimCase_wait_unpinned (h.1 f) waits sound
  have entry : EntrySound ((State.joined s f w).entry f) := by
    rw [joined_entry]
    exact ⟨(h.1 f).1, (h.1 f).2.1, by simp [free, sound, pinned]⟩
  have but : SoundBut f (State.joined s f w) :=
    soundBut_sameState (s := s.takeRecord w.port) (f := f)
      (e := { s.entry f with queue := (s.entry f).queue ++ [w] }) (h.but f) rfl
  split
  · exact dirSound_advance false but (.inl entry)
  · exact but.close entry

theorem dirSound_withdraw (h : DirSound s) (f : Nat) (p : Port) : DirSound (s.withdraw f p) := by
  let s1 := (s.putEntry f
    { s.entry f with queue := (s.entry f).queue.filter (fun w => w.port != p) }).returnRecord p
  have entry : s1.entry f =
      { s.entry f with queue := (s.entry f).queue.filter (fun w => w.port != p) } :=
    entry_putEntry_same s f _
  have sound : EntrySound (s1.entry f) := by
    rw [entry]
    exact ⟨(h.1 f).1, (h.1 f).2.1, fun hst => by simp [(h.1 f).2.2 hst]⟩
  have dequeued : SoundBut f s1 := soundBut_sameState (s := s) (f := f)
    (e := { s.entry f with queue := (s.entry f).queue.filter (fun w => w.port != p) }) (h.but f) rfl
  unfold State.withdraw
  dsimp only
  split
  · exact dirSound_advance false (soundBut_dropRecall dequeued f)
      (.inl (entrySound_of_recallField (dropRecall_entry s1 f f) sound))
  · exact dequeued.close sound

theorem dirSound_clear {f : Nat} {p : Port} (origin : Origin) (notify : Option Port) (h : DirSound s)
    (used : inUse (s.entry f).state = true) (sole : (s.entry f).holders = onePort p)
    (room : s.scrubQueue.length < 16) :
    DirSound (State.toScrub ((s.leave f p).1.dropRecall f) f origin notify) := by
  have entry := (leave_entry s f p).trans (dropRecall_entry (s.leave f p).1 f f)
  have queue : ((s.leave f p).1.dropRecall f).scrubQueue = s.scrubQueue := by
    rw [((directoryChange_leave s f p).trans (directoryChange_dropRecall _ f)).1]
  refine dirSound_toScrub origin notify (soundBut_dropRecall (soundBut_leave h f p) f) ?_ ?_ ?_
  · rw [entry]
    intro scrubbing
    have scrubbing : (s.entry f).state = .scrubbing := scrubbing
    simp [scrubbing, inUse] at used
  · rw [entry]
    show (s.entry f).holders.set p false = noPorts
    rw [sole, onePort_set_false]
  · rw [queue]
    exact room

theorem dirSound_scrub {f : Nat} (origin : Origin) (notify : Option Port) (h : DirSound s)
    (unused : (s.entry f).state = .uninitialized ∨
      (scrubbable (s.entry f).state = true ∧ (s.entry f).holders = noPorts))
    (room : s.scrubQueue.length < 16) : DirSound (State.toScrub s f origin notify) := by
  rcases unused with uninit | ⟨scrubs, none⟩
  · exact dirSound_toScrub origin notify (h.but f) (by simp [uninit])
      (entrySound_noHolders (h.1 f) (by simp [uninit, inUse]) (by simp [uninit])) room
  · refine dirSound_toScrub origin notify (h.but f) (fun scrubbing => ?_) none room
    simp [scrubbing, scrubbable] at scrubs

theorem dirSound_free {f : Nat} (h : DirSound s) (quarantined : (s.entry f).state = .quarantined) :
    DirSound ((s.putEntry f { s.entry f with state := .free }).advance false f) := by
  have none := entrySound_noHolders (h.1 f) (by simp [quarantined, inUse]) (by simp [quarantined])
  have pinned := entrySound_unpinned (h.1 f) (by simp [quarantined, inUse])
  refine dirSound_advance false (soundBut_putEntry (h.but f) (by simp) (by simp [quarantined])) (.inr ?_)
  rw [entry_putEntry_same]
  exact ⟨rfl, none, pinned⟩

/-- The head of the scrub queue leaves it as FREE, which keeps the two in step (R130). -/
theorem dirSound_finish {d : ScrubEntry} {rest : List ScrubEntry} {u : State} (h : DirSound s)
    (front : s.scrubQueue = d :: rest)
    (told : Quiet (({ s with scrubQueue := rest } : State).putEntry d.frame
      { s.entry d.frame with state := .free }) u) : DirSound (u.advance false d.frame) := by
  obtain ⟨entries, room, nodup, listed⟩ := h
  rw [front, List.map_cons] at nodup listed
  obtain ⟨fresh, nodup⟩ := List.nodup_cons.1 nodup
  have scrubbing : (s.entry d.frame).state = .scrubbing := (listed d.frame).2 (by simp)
  let s2 := ({ s with scrubQueue := rest } : State).putEntry d.frame
    { s.entry d.frame with state := .free }
  have entry : ∀ g, s2.entry g = if g = d.frame then { s.entry d.frame with state := .free }
      else s.entry g := fun g => entry_putEntry ({ s with scrubQueue := rest } : State) d.frame g _
  have but : SoundBut d.frame s2 := by
    refine ⟨fun g hg => ?_, ?_, nodup, fun g => ?_⟩
    · rw [entry, if_neg hg]
      exact entries g
    · have room : (d :: rest).length ≤ 16 := front ▸ room
      exact (Nat.le_succ _).trans room
    · show (s2.entry g).state = .scrubbing ↔ g ∈ rest.map ScrubEntry.frame
      rw [entry]
      split
      next hg =>
        subst hg
        simpa using fresh
      next hg => simpa [hg] using listed g
  have none := entrySound_noHolders (entries d.frame) (by simp [scrubbing, inUse]) (by simp [scrubbing])
  have pinned := entrySound_unpinned (entries d.frame) (by simp [scrubbing, inUse])
  refine dirSound_advance false (soundBut_quiet but told) (.inr ?_)
  rw [told.entry, entry, if_pos rfl]
  exact ⟨rfl, none, pinned⟩

theorem dirSound_quarantine {f : Nat} {p : Port} (h : DirSound s) (priv : (s.entry f).state = .priv)
    (held : (s.entry f).holders.get p = true) : DirSound (s.quarantine f p) := by
  obtain ⟨q, hq⟩ : ∃ q, (s.entry f).holders = onePort q := by
    have holders := (h.1 f).1
    rwa [priv] at holders
  have hpq : p = q := by simpa [hq, onePort_get] using held
  let e : Entry := { s.entry f with holders := (s.entry f).holders.set p false, state := .quarantined,
                                    pinned := false }
  have none : e.holders = noPorts := by
    show (s.entry f).holders.set p false = noPorts
    rw [hq, hpq, onePort_set_false]
  have put : SoundBut f (s.putEntry f e) := soundBut_putEntry (h.but f) (by simp [e]) (by simp [priv])
  have dropped : DirSound ((s.putEntry f e).dropRecall f) := by
    refine (soundBut_dropRecall put f).close
      (entrySound_of_recallField (dropRecall_entry (s.putEntry f e) f f) ?_)
    rw [entry_putEntry_same]
    exact ⟨none, by simp [e], by simp [e]⟩
  exact dirSound_quiet dropped (quiet_postSet _ _ _)

theorem refuseWaiters_entry (f : Nat) (l : List WaitRec) (s : State) (g : Nat) :
    (State.refuseWaiters f l s).entry g = s.entry g := by
  rw [State.entry, State.entry, refuseWaiters_dir]

/-- The entry that poisoning leaves (R116). -/
theorem poison_entry (s : State) (f : Nat) (accessor : Option Port) (g : Nat) :
    RecallFieldChange
      (if g = f then { s.entry f with state := .poisoned, pinned := false, queue := [] } else s.entry g)
      ((s.poison f accessor).entry g) := by
  let s1 := (s.putEntry f { s.entry f with state := .poisoned, pinned := false }).dropRecall f
  let told :=
    match accessor with
    | some p => (s.entry f).holders.set p true
    | none => (s.entry f).holders
  let s2 := State.refuseWaiters f (s.entry f).queue (s1.postSet told (.poisoned f))
  have kept : ∀ g, s2.entry g = s1.entry g := fun g => by
    rw [refuseWaiters_entry, postSet_entry]
  have drop := dropRecall_entry (s.putEntry f { s.entry f with state := .poisoned, pinned := false }) f g
  show RecallFieldChange _ ((s2.putEntry f { s2.entry f with queue := [] }).entry g)
  rw [entry_putEntry]
  split
  next hg =>
    subst hg
    rw [entry_putEntry_same] at drop
    rw [kept, drop]
    rfl
  next hg =>
    rw [entry_putEntry_ne _ _ hg] at drop
    rw [kept]
    exact drop

theorem dirSound_poison {f : Nat} (accessor : Option Port) (h : DirSound s)
    (used : inUse (s.entry f).state = true) : DirSound (s.poison f accessor) := by
  have resting : (s.entry f).state ≠ .scrubbing := fun scrubbing => by simp [scrubbing, inUse] at used
  refine ⟨fun g => ?_, SameScrubbing.sound (s := s) ⟨?_, fun g => ?_⟩ h.2⟩
  · refine entrySound_of_recallField (poison_entry s f accessor g) ?_
    split
    · exact ⟨trivial, by simp, fun _ => rfl⟩
    · exact h.1 g
  · rw [(directoryChange_poison s f accessor).1]
  · rw [poison_entry s f accessor g]
    split
    next hg =>
      subst hg
      simp [resting]
    next => exact Iff.rfl

theorem withoutSet_get (a b : PortSet) (p : Port) :
    (withoutSet a b).get p = (a.get p && !b.get p) := by
  cases p <;> rfl

theorem dirSound_expire (h : DirSound s) (r : RecallRec) : DirSound (s.expireRecall r) := by
  let s1 := s.putEntry r.frame
    { s.entry r.frame with holders := withoutSet (s.entry r.frame).holders r.toRelease }
  let s2 := s1.postSet r.toRelease (.revoked r.frame .timeout)
  have revoked : SoundBut r.frame s2 :=
    soundBut_quiet (soundBut_sameState (h.but r.frame) (by rfl)) (quiet_postSet s1 _ _)
  have entry := dropRecall_entry s2 r.frame r.frame
  have entry2 : s2.entry r.frame =
      { s.entry r.frame with holders := withoutSet (s.entry r.frame).holders r.toRelease } := by
    rw [postSet_entry, entry_putEntry_same]
  rw [entry2] at entry
  refine dirSound_afterLeaving true (soundBut_dropRecall revoked r.frame)
    (entrySound_fewerThen (h.1 r.frame) (fun p hp => ?_) entry)
  rw [withoutSet_get, Bool.and_eq_true] at hp
  exact hp.1

theorem move_keeps_dirSound {C : Prop} {s t : State} (move : Move C s t) (h : DirSound s) :
    DirSound t := by
  cases move with
  | quiet q => exact dirSound_quiet h q
  | put change => exact dirSound_put h change
  | advance forced f => exact dirSound_advance forced (h.but f) (.inl (h.1 f))
  | enqueue _ waits sound _ _ _ => exact dirSound_enqueue h waits sound
  | withdraw _ => exact dirSound_withdraw h _ _
  | leave f p => exact dirSound_leave h f p
  | clear _ _ used sole room => exact dirSound_clear _ _ h used sole room
  | scrub _ _ unused room => exact dirSound_scrub _ _ h unused room
  | free quarantined => exact dirSound_free h quarantined
  | finish front told => exact dirSound_finish h front told
  | quarantine priv held => exact dirSound_quarantine h priv held
  | poison accessor used => exact dirSound_poison accessor h used
  | expire _ _ => exact dirSound_expire h _
  | forget _ _ _ _ => exact h

end Moves

/-! ### The statement -/

theorem entrySound_reset : EntrySound Entry.reset := ⟨rfl, by simp [Entry.reset], fun _ => rfl⟩

theorem dirSound_of_dir_nil {s : State} (dir : s.dir = []) (queue : s.scrubQueue = []) : DirSound s := by
  have entry := entry_of_dir_nil dir
  refine ⟨fun f => entry f ▸ entrySound_reset, by simp [queue], by simp [queue], fun f => ?_⟩
  simp [entry, queue, Entry.reset]

theorem dirSound_partReset {s t : State} (h : exec .partReset s = .next t) : DirSound t := by
  cases h
  exact dirSound_of_dir_nil rfl rfl

/-- At the release of RSTn the sweep's first frame joins an empty scrub queue (R133). -/
theorem moves_released {C : Prop} (s : State) (strap : Fin 4) (dir : s.dir = []) (queue : s.scrubQueue = []) :
    Moves C (State.released s strap) ((State.released s strap).appendScrub 0 .sweep none) := by
  have entry := entry_of_dir_nil (s := State.released s strap) dir 0
  have room : (State.released s strap).scrubQueue.length < 16 := by
    rw [State.released, queue]
    decide
  exact moves_scrubbed _ _ (Moves.one (.scrub _ _ (.inl (by rw [entry]; rfl)) room))

theorem step_keeps_directory {s t : State} (hwf : Directory.wf s.dir) (h : step s = .next t) :
    Directory.wf t.dir := by
  have keeps := fun {u v : State} (run : Edits Scope.any u v) (hu : Directory.wf u.dir) =>
    run.keeps (I := fun u => Directory.wf u.dir) (fun _ _ edit => edit_keeps_directory edit) hu
  rcases step_cases (listed := fun _ => True) (fun _ _ => trivial) h with ⟨now, pending, run⟩ |
    ⟨rest, hpart⟩ | ⟨strap, rest, _, run⟩ | ⟨p, rest, _, rfl⟩
  · exact keeps run hwf
  · cases hpart
    exact ⟨List.Pairwise.nil, nofun⟩
  · exact keeps run hwf
  · have departed : Directory.wf (State.departed { s with pending := rest } p).dir :=
      keeps (edits_departed { s with pending := rest } p trivial) hwf
    exact departed

theorem step_keeps_dirSound {s t : State} (hwf : Directory.wf s.dir) (hs : DirectorySound s)
    (h : step s = .next t) : DirectorySound t := by
  obtain ⟨entries, scrub, hold⟩ := hs
  suffices sound : DirSound t from ⟨sound.1, sound.2, step_keeps_resetHolds hold h⟩
  rcases step_moves (C := False) hwf False.elim h with run | ⟨rest, hpart⟩ | ⟨strap, rest, hrst, rfl⟩
  · exact run.keeps (fun _ _ move => move_keeps_dirSound move) ⟨entries, scrub⟩
  · exact dirSound_partReset hpart
  · obtain ⟨dir, queue, _⟩ := hold hrst
    exact (moves_released (C := False) { s with pending := rest } strap dir queue).keeps
      (fun _ _ move => move_keeps_dirSound move) (dirSound_of_dir_nil dir queue)

/-- Settles O10: every move leaves a sound entry and keeps the scrub queue in step. -/
theorem stepKeepsDirectorySound : Obligations.StepKeepsDirectorySound :=
  fun _ _ hs h => ⟨step_keeps_directory hs.1 h, step_keeps_dirSound hs.1 hs.2 h⟩

end Sys2Proof.Proofs
end

section
/-! PROOFS. The recall unit stays sound (R35, R52 to R58), move by move: the links between entries, records and
the deferred list hold throughout, and while one frame is being worked on every other has what it needs. -/

namespace Sys2Proof.Proofs
set_option Elab.async false

open Sys2Proof.Machine Sys2Proof.Safety Sys2Proof.Laws

/-! ### The invariant, frame by frame -/

/-- What a recall record says of its frame's entry (R53). -/
structure RecordFits (e : Entry) (r : RecallRec) : Prop where
  used : inUse e.state = true
  head : ∃ h t, e.queue = h :: t ∧ h.port = r.requester ∧ h.mode = r.wanted ∧
    r.toRelease.get h.port = false
  asks : r.toRelease ≠ noPorts
  held : ∀ p, r.toRelease.get p = true → e.holders.get p = true

/-- The waiters of a frame: no port twice, and not the holder of a PRIVATE frame (R21, R31). -/
def WaitersRight (e : Entry) : Prop :=
  (e.queue.map WaitRec.port).Nodup ∧ (e.state = .priv → ∀ w ∈ e.queue, e.holders.get w.port = false)

/-- A frame's records fit it. -/
def RecordsFit (s : State) (g : Nat) : Prop :=
  ∀ i r, s.recalls.get i = some r → r.frame = g → RecordFits (s.entry g) r

structure FrameServed (s : State) (g : Nat) : Prop where
  fits : RecordsFit s g
  pursued : needsRecall (s.entry g) = true → (s.entry g).recallField ≠ .none
  waiters : WaitersRight (s.entry g)

/-- Entries, records and a deferred list name each other (R52, R56). -/
structure RecallLinks (l : List Deferred) (s : State) : Prop where
  named : ∀ i r, s.recalls.get i = some r → (s.entry r.frame).recallField = .active i
  found : ∀ f i, (s.entry f).recallField = .active i → ∃ r, s.recalls.get i = some r ∧ r.frame = f
  nodup : (l.map Deferred.frame).Nodup
  listed : ∀ f, (s.entry f).recallField = .deferred ↔ f ∈ l.map Deferred.frame

/-- The recall unit is sound but for what one frame needs. -/
structure RecallBut (f : Nat) (s : State) : Prop where
  links : RecallLinks s.deferred s
  full : s.deferred ≠ [] → ∀ i, s.recalls.get i ≠ none
  others : ∀ g, g ≠ f → FrameServed s g

theorem recallsSound_iff {s : State} (f : Nat) :
    RecallsSound s ↔ RecallBut f s ∧ FrameServed s f := by
  constructor
  · rintro ⟨waiters, records, ⟨found, nodup, listed⟩, pursued, full⟩
    have served : ∀ g, FrameServed s g := fun g => by
      refine ⟨fun i r hr hg => ?_, pursued g, waiters g⟩
      obtain ⟨_, used, head, asks, held⟩ := records i r hr
      exact hg ▸ ⟨used, head, asks, held⟩
    exact ⟨⟨⟨fun i r hr => (records i r hr).1, found, nodup, listed⟩, full, fun g _ => served g⟩,
      served f⟩
  · rintro ⟨⟨⟨named, found, nodup, listed⟩, full, others⟩, here⟩
    have served : ∀ g, FrameServed s g := fun g =>
      if hg : g = f then hg ▸ here else others g hg
    refine ⟨fun g => (served g).waiters, fun i r hr => ?_, ⟨found, nodup, listed⟩,
      fun g => (served g).pursued, full⟩
    obtain ⟨used, head, asks, held⟩ := (served r.frame).fits i r hr rfl
    exact ⟨named i r hr, used, head, asks, held⟩

/-! ### What the operations need of the invariant -/

theorem recalls_get_set (v : Vector (Option RecallRec) 8) (i j : Fin 8) (x : Option RecallRec) :
    (v.set i x).get j = if j = i then x else v.get j := by
  simp only [Vector.get_eq_getElem, Vector.getElem_set, Fin.ext_iff, eq_comm]

/-- A frame that no field names a record for has none. -/
theorem RecallLinks.unrecorded {l : List Deferred} {s : State} (h : RecallLinks l s) {f : Nat}
    (inactive : ∀ i, (s.entry f).recallField ≠ .active i) {i : Fin 8} {r : RecallRec}
    (hr : s.recalls.get i = some r) : r.frame ≠ f :=
  fun hf => inactive i (hf ▸ h.named i r hr)

theorem recordsFit_of_inactive {l : List Deferred} {s : State} (h : RecallLinks l s) {f : Nat}
    (inactive : ∀ i, (s.entry f).recallField ≠ .active i) : RecordsFit s f :=
  fun _ _ hr hf => absurd hf (h.unrecorded inactive hr)

/-- A frame not in use has no record. -/
theorem RecordsFit.inactive {s : State} {l : List Deferred} {f : Nat} (h : RecordsFit s f)
    (links : RecallLinks l s) (unfit : ∀ r, ¬ RecordFits (s.entry f) r) (i : Fin 8) :
    (s.entry f).recallField ≠ .active i := fun active => by
  obtain ⟨r, hr, hf⟩ := links.found f i active
  exact unfit r (h i r hr hf)

/-- Two states that agree in the directory, the recall table and the deferred list. -/
structure SameRecalls (s t : State) : Prop where
  entry : ∀ g, t.entry g = s.entry g
  recalls : t.recalls = s.recalls
  deferred : t.deferred = s.deferred

theorem SameRecalls.of_quiet {s t : State} (h : Quiet s t) : SameRecalls s t :=
  ⟨h.entry, h.recalls, h.deferred⟩

theorem FrameServed.congr {s t : State} {g : Nat} (h : FrameServed s g) (entry : t.entry g = s.entry g)
    (recalls : ∀ i r, t.recalls.get i = some r → r.frame = g → s.recalls.get i = some r) :
    FrameServed t g :=
  ⟨fun i r hr hg => entry ▸ h.fits i r (recalls i r hr hg) hg, entry ▸ h.pursued, entry ▸ h.waiters⟩

theorem SameRecalls.but {s t : State} {f : Nat} (same : SameRecalls s t) (h : RecallBut f s) :
    RecallBut f t := by
  obtain ⟨entry, recalls, deferred⟩ := same
  obtain ⟨⟨named, found, nodup, listed⟩, full, others⟩ := h
  refine ⟨⟨fun i r hr => ?_, fun g i hg => ?_, deferred ▸ nodup, fun g => ?_⟩, ?_, fun g hg => ?_⟩
  · rw [entry]
    exact named i r (recalls ▸ hr)
  · rw [recalls]
    exact found g i (entry g ▸ hg)
  · rw [entry, deferred]
    exact listed g
  · rw [deferred, recalls]
    exact full
  · exact (others g hg).congr (entry g) (fun i r hr _ => recalls ▸ hr)

/-- The worked-on frame's entry is replaced, its recall field kept. -/
theorem recallBut_putEntry {s : State} {f : Nat} {e : Entry} (h : RecallBut f s)
    (field : e.recallField = (s.entry f).recallField := by rfl) : RecallBut f (s.putEntry f e) := by
  obtain ⟨⟨named, found, nodup, listed⟩, full, others⟩ := h
  have fields : ∀ g, ((s.putEntry f e).entry g).recallField = (s.entry g).recallField := fun g => by
    rw [entry_putEntry]
    split
    next hg => rw [field, hg]
    next => rfl
  refine ⟨⟨fun i r hr => ?_, fun g i hg => found g i (fields g ▸ hg), nodup, fun g => ?_⟩, full,
    fun g hg => (others g hg).congr (entry_putEntry_ne s e hg) (fun _ _ hr _ => hr)⟩
  · rw [fields]
    exact named i r hr
  · rw [fields]
    exact listed g

/-! ### Starting and deferring recalls -/

/-- The record of a recall started for a frame's head (R54). -/
def newRecord (s : State) (f : Nat) (h : WaitRec) : RecallRec :=
  { frame := f, requester := h.port, wanted := h.mode, toRelease := toReleaseOf (s.entry f),
    deadline := s.now + s.recallTimeout * 10 }

theorem startRecall_recalls {s : State} {f : Nat} {i : Fin 8} {h : WaitRec} {t : List WaitRec}
    (hq : (s.entry f).queue = h :: t) :
    (s.startRecall f i).recalls = s.recalls.set i (some (newRecord s f h)) := by
  unfold State.startRecall
  simp only [hq]
  rw [(quiet_postSet _ _ _).recalls]
  rfl

theorem startRecall_deferred (s : State) (f : Nat) (i : Fin 8) :
    (s.startRecall f i).deferred = s.deferred := by
  unfold State.startRecall
  dsimp only
  split
  · rfl
  · rw [(quiet_postSet _ _ _).deferred]
    rfl

theorem startRecall_entries {s : State} {f : Nat} {i : Fin 8} {h : WaitRec} {t : List WaitRec}
    (hq : (s.entry f).queue = h :: t) (g : Nat) :
    (s.startRecall f i).entry g =
      if g = f then { s.entry f with recallField := .active i } else s.entry g := by
  unfold State.startRecall
  simp only [hq]
  rw [postSet_entry]
  exact entry_putEntry ({ s with recalls := _ } : State) f g _

theorem needsRecall_parts {e : Entry} (h : needsRecall e = true) :
    ∃ w t, e.queue = w :: t ∧ inUse e.state = true ∧ e.holders.set w.port false ≠ noPorts := by
  simp only [needsRecall, Bool.and_eq_true, Bool.not_eq_true'] at h
  obtain ⟨⟨used, waits⟩, asks⟩ := h
  cases hq : e.queue with
  | nil => simp [hq] at waits
  | cons w t =>
    rw [toReleaseOf, hq] at asks
    exact ⟨w, t, rfl, used, fun empty => by simp [empty, setIsEmpty] at asks⟩

/-- A record started for a frame that needs a recall fits it. -/
theorem newRecord_fits {s : State} {f : Nat} {h : WaitRec} {t : List WaitRec}
    (hq : (s.entry f).queue = h :: t) (used : inUse (s.entry f).state = true)
    (asks : (s.entry f).holders.set h.port false ≠ noPorts) {e : Entry}
    (change : RecallFieldChange (s.entry f) e) : RecordFits e (newRecord s f h) := by
  have toRelease : (newRecord s f h).toRelease = (s.entry f).holders.set h.port false := by
    rw [newRecord, toReleaseOf, hq]
  rw [change]
  exact ⟨used, ⟨h, t, hq, rfl, rfl, by rw [toRelease, perPort_get_set_same]⟩, toRelease ▸ asks,
    fun p hp => set_false_get (toRelease ▸ hp)⟩

/-- A recall started in a free record, for a frame that has none. -/
theorem links_startRecall {l l' : List Deferred} {s : State} {f : Nat} {i : Fin 8} {h : WaitRec}
    {t : List WaitRec} (links : RecallLinks l s) (hq : (s.entry f).queue = h :: t)
    (free : s.recalls.get i = none) (inactive : ∀ j, (s.entry f).recallField ≠ .active j)
    (nodup : (l'.map Deferred.frame).Nodup) (gone : f ∉ l'.map Deferred.frame)
    (rest : ∀ g, g ≠ f → (g ∈ l'.map Deferred.frame ↔ g ∈ l.map Deferred.frame)) :
    RecallLinks l' (s.startRecall f i) := by
  have unrecorded := fun {j r} (hr : s.recalls.get j = some r) => links.unrecorded inactive hr
  refine ⟨fun j r hr => ?_, fun g j hg => ?_, nodup, fun g => ?_⟩
  · rw [startRecall_recalls hq, recalls_get_set] at hr
    rw [startRecall_entries hq]
    split at hr
    next hj =>
      cases hr
      rw [hj]
      simp [newRecord]
    next =>
      rw [if_neg (unrecorded hr)]
      exact links.named j r hr
  · rw [startRecall_entries hq] at hg
    rw [startRecall_recalls hq, recalls_get_set]
    split at hg
    next hgf =>
      cases hg
      exact ⟨newRecord s f h, if_pos rfl, hgf.symm⟩
    next =>
      obtain ⟨r, hr, hf⟩ := links.found g j hg
      have used : j ≠ i := fun e => by simp [e, free] at hr
      exact ⟨r, by rw [if_neg used]; exact hr, hf⟩
  · rw [startRecall_entries hq]
    split
    next hgf => simpa [hgf] using gone
    next hgf => exact (links.listed g).trans (rest g hgf).symm

theorem served_startRecall {s : State} {f g : Nat} {i : Fin 8} {h : WaitRec} {t : List WaitRec}
    (hq : (s.entry f).queue = h :: t) (hg : g ≠ f) (served : FrameServed s g) :
    FrameServed (s.startRecall f i) g := by
  refine served.congr ?_ (fun j r hr hf => ?_)
  · rw [startRecall_entries hq, if_neg hg]
  · rw [startRecall_recalls hq, recalls_get_set] at hr
    split at hr
    · cases hr
      exact absurd hf.symm hg
    · exact hr

/-- The frame for which a recall is started has what it needs. -/
theorem served_startRecall_same {l : List Deferred} {s : State} {f : Nat} {i : Fin 8}
    (links : RecallLinks l s) (inactive : ∀ j, (s.entry f).recallField ≠ .active j)
    (needs : needsRecall (s.entry f) = true) (waiters : WaitersRight (s.entry f)) :
    FrameServed (s.startRecall f i) f := by
  obtain ⟨h, t, hq, used, asks⟩ := needsRecall_parts needs
  have entry : (s.startRecall f i).entry f = { s.entry f with recallField := .active i } := by
    rw [startRecall_entries hq, if_pos rfl]
  refine ⟨fun j r hr hf => ?_, fun _ => by rw [entry]; exact nofun, by rw [entry]; exact waiters⟩
  rw [startRecall_recalls hq, recalls_get_set] at hr
  split at hr
  · cases hr
    exact newRecord_fits hq used asks (by rw [entry]; rfl)
  · exact absurd hf (links.unrecorded inactive hr)

theorem placeDeferred_perm (d : Deferred) (l : List Deferred) : (placeDeferred d l).Perm (d :: l) := by
  induction l with
  | nil => exact List.Perm.refl _
  | cons x t ih =>
    rw [placeDeferred]
    split
    · exact List.Perm.refl _
    · exact (ih.cons x).trans (List.Perm.swap _ _ _)

theorem deferRecall_eq {s : State} {f : Nat} {h : WaitRec} {t : List WaitRec}
    (hq : (s.entry f).queue = h :: t) :
    s.deferRecall f = ({ s with deferred := placeDeferred ⟨f, h.seq⟩ s.deferred } : State).putEntry f
      { s.entry f with recallField := .deferred } := by
  unfold State.deferRecall
  simp only [hq]

/-- A recall is deferred while every record is in use (R56). -/
theorem recallBut_deferRecall {s : State} {f : Nat} {h : WaitRec} {t : List WaitRec} (but : RecallBut f s)
    (hq : (s.entry f).queue = h :: t) (field : (s.entry f).recallField = .none)
    (full : ∀ i, s.recalls.get i ≠ none) : RecallBut f (s.deferRecall f) := by
  rw [deferRecall_eq hq]
  let s1 : State := { s with deferred := placeDeferred ⟨f, h.seq⟩ s.deferred }
  let e : Entry := { s.entry f with recallField := .deferred }
  have entry : ∀ g, (s1.putEntry f e).entry g = if g = f then e else s.entry g :=
    fun g => entry_putEntry s1 f g e
  have frames : ((placeDeferred ⟨f, h.seq⟩ s.deferred).map Deferred.frame).Perm
      (f :: s.deferred.map Deferred.frame) := (placeDeferred_perm _ _).map _
  have fresh : f ∉ s.deferred.map Deferred.frame := fun hf => by
    have deferred := (but.links.listed f).2 hf
    simp [field] at deferred
  refine ⟨⟨fun i r hr => ?_, fun g i hg => ?_, ?_, fun g => ?_⟩, fun _ => full, fun g hg => ?_⟩
  · rw [entry, if_neg (but.links.unrecorded (by simp [field]) hr)]
    exact but.links.named i r hr
  · rw [entry] at hg
    split at hg
    · cases hg
    · exact but.links.found g i hg
  · exact frames.nodup_iff.2 (List.nodup_cons.2 ⟨fresh, but.links.nodup⟩)
  · show ((s1.putEntry f e).entry g).recallField = _ ↔
      g ∈ (placeDeferred ⟨f, h.seq⟩ s.deferred).map Deferred.frame
    rw [entry, frames.mem_iff]
    split
    next hg => simp [hg, e]
    next hg => simpa [hg] using but.links.listed g
  · exact (but.others g hg).congr (by rw [entry, if_neg hg]) (fun _ _ hr _ => hr)

theorem freeRecall_some {s : State} {i : Fin 8} (h : s.freeRecall = some i) : s.recalls.get i = none := by
  simpa using List.find?_some h

theorem freeRecall_none {s : State} (h : s.freeRecall = none) (i : Fin 8) : s.recalls.get i ≠ none := by
  have all := List.find?_eq_none.1 h i (by revert i; decide)
  simpa using all

/-- Ensuring a recall gives the frame what it needs (R35). -/
theorem served_ensureRecall {s : State} {f : Nat} (but : RecallBut f s) (fits : RecordsFit s f)
    (waiters : WaitersRight (s.entry f)) (needs : needsRecall (s.entry f) = true) :
    RecallBut f (s.ensureRecall f) ∧ FrameServed (s.ensureRecall f) f := by
  obtain ⟨h, t, hq, used, asks⟩ := needsRecall_parts needs
  unfold State.ensureRecall
  split
  next field =>
    have inactive : ∀ j, (s.entry f).recallField ≠ .active j := by simp [field]
    split
    next i hi =>
      have fresh : f ∉ s.deferred.map Deferred.frame := fun hf => by
        have deferred := (but.links.listed f).2 hf
        simp [field] at deferred
      have free := freeRecall_some hi
      have links : RecallLinks (s.startRecall f i).deferred (s.startRecall f i) := by
        rw [startRecall_deferred]
        exact links_startRecall but.links hq free inactive but.links.nodup fresh (fun _ _ => Iff.rfl)
      refine ⟨⟨links, fun waiting j => ?_, fun g hg => served_startRecall hq hg (but.others g hg)⟩,
        served_startRecall_same but.links inactive needs waiters⟩
      rw [startRecall_deferred] at waiting
      exact absurd free (but.full waiting i)
    next hi =>
      refine ⟨recallBut_deferRecall but hq field (freeRecall_none hi), ?_⟩
      have entry : (s.deferRecall f).entry f = { s.entry f with recallField := .deferred } := by
        rw [deferRecall_eq hq, entry_putEntry_same]
      have recalls : (s.deferRecall f).recalls = s.recalls := by rw [deferRecall_eq hq]; rfl
      refine ⟨fun j r hr hf => ?_, fun _ => by rw [entry]; exact nofun, by rw [entry]; exact waiters⟩
      exact absurd hf (but.links.unrecorded inactive (recalls ▸ hr))
  next active => exact ⟨but, fits, fun _ => by simp [active], waiters⟩
  next deferred => exact ⟨but, fits, fun _ => by simp [deferred], waiters⟩

/-! ### Removing recalls -/

/-- A freed record is offered to the deferred list: the links hold again, the list shrinks, and no frame goes
without what it needs (R58). -/
theorem recallBut_feedDeferred {f : Nat} {i : Fin 8} (l : List Deferred) {s : State}
    (links : RecallLinks l s) (free : s.recalls.get i = none)
    (full : l ≠ [] → ∀ j, j ≠ i → s.recalls.get j ≠ none)
    (others : ∀ g, g ≠ f → FrameServed s g) (apart : f ∉ l.map Deferred.frame) :
    RecallBut f (State.feedDeferred i l s) ∧ (State.feedDeferred i l s).entry f = s.entry f := by
  induction l generalizing s with
  | nil =>
    refine ⟨⟨?_, fun none => absurd rfl none,
      fun g hg => (others g hg).congr rfl (fun _ _ hr _ => hr)⟩, rfl⟩
    exact ⟨links.named, links.found, links.nodup, links.listed⟩
  | cons d rest ih =>
    obtain ⟨fresh, nodup⟩ := List.nodup_cons.1 links.nodup
    have hd : (s.entry d.frame).recallField = .deferred := (links.listed d.frame).2 (by simp)
    have inactive : ∀ j, (s.entry d.frame).recallField ≠ .active j := by simp [hd]
    have apartD : d.frame ≠ f := fun e => apart (by simp [e])
    have apartRest : f ∉ rest.map Deferred.frame := fun hf => apart (by simp [hf])
    rw [State.feedDeferred]
    split
    next needs =>
      obtain ⟨h, t, hq, used, asks⟩ := needsRecall_parts needs
      let s1 : State := { s with deferred := rest }
      have links1 : RecallLinks (d :: rest) s1 := ⟨links.named, links.found, links.nodup, links.listed⟩
      have entries := startRecall_entries (s := s1) (i := i) hq
      have recalls := startRecall_recalls (s := s1) (i := i) hq
      refine ⟨⟨?_, fun waiting j => ?_, fun g hg => ?_⟩, ?_⟩
      · rw [startRecall_deferred]
        exact links_startRecall links1 hq free inactive nodup fresh (fun g hg => by simp [hg])
      · rw [recalls, recalls_get_set]
        split
        · simp
        next hj => exact full (by simp) j hj
      · by_cases hgd : g = d.frame
        · subst hgd
          exact served_startRecall_same (s := s1) links1 inactive needs (others d.frame hg).waiters
        · exact served_startRecall (s := s1) hq hgd ((others g hg).congr rfl (fun _ _ hr _ => hr))
      · rw [entries, if_neg (Ne.symm apartD)]
        rfl
    next unneeded =>
      let e : Entry := { s.entry d.frame with recallField := .none }
      have entry : ∀ g, (s.putEntry d.frame e).entry g = if g = d.frame then e else s.entry g :=
        fun g => entry_putEntry s d.frame g e
      have links2 : RecallLinks rest (s.putEntry d.frame e) := by
        refine ⟨fun j r hr => ?_, fun g j hg => ?_, nodup, fun g => ?_⟩
        · rw [entry, if_neg (links.unrecorded inactive hr)]
          exact links.named j r hr
        · rw [entry] at hg
          split at hg
          · cases hg
          · exact links.found g j hg
        · rw [entry]
          split
          next hg => simpa [hg, e] using fresh
          next hg => simpa [hg] using links.listed g
      have served : ∀ g, g ≠ f → FrameServed (s.putEntry d.frame e) g := fun g hg => by
        by_cases hgd : g = d.frame
        · subst hgd
          refine ⟨recordsFit_of_inactive links2 (by rw [entry]; simp [e]), fun needs => ?_, ?_⟩
          · rw [entry, if_pos rfl] at needs
            exact absurd needs unneeded
          · rw [entry, if_pos rfl]
            exact (others d.frame hg).waiters
        · exact (others g hg).congr (by rw [entry, if_neg hgd]) (fun _ _ hr _ => hr)
      obtain ⟨but, same⟩ := ih links2 free (fun _ => full (by simp)) served apartRest
      refine ⟨but, same.trans ?_⟩
      rw [entry, if_neg (Ne.symm apartD)]

/-- Removing a frame's recall keeps the unit sound but for the frame, which has none then (R66). -/
theorem recallBut_dropRecall {s : State} {f : Nat} (but : RecallBut f s) :
    RecallBut f (s.dropRecall f) ∧ ((s.dropRecall f).entry f).recallField = .none := by
  obtain ⟨links, full, others⟩ := but
  unfold State.dropRecall
  dsimp only
  split
  next field => exact ⟨⟨links, full, others⟩, field⟩
  next field =>
    let l := s.deferred.filter (fun d => d.frame != f)
    let s1 : State := { s with deferred := l }
    let e : Entry := { s.entry f with recallField := .none }
    have entry : ∀ g, (s1.putEntry f e).entry g = if g = f then e else s.entry g :=
      fun g => entry_putEntry s1 f g e
    refine ⟨⟨⟨fun i r hr => ?_, fun g i hg => ?_, ?_, fun g => ?_⟩, fun waiting => ?_, fun g hg => ?_⟩, ?_⟩
    · rw [entry, if_neg (links.unrecorded (by simp [field]) hr)]
      exact links.named i r hr
    · rw [entry] at hg
      split at hg
      · cases hg
      · exact links.found g i hg
    · exact links.nodup.sublist (List.filter_sublist.map _)
    · show ((s1.putEntry f e).entry g).recallField = _ ↔ g ∈ l.map Deferred.frame
      have member : g ∈ l.map Deferred.frame ↔ g ∈ s.deferred.map Deferred.frame ∧ g ≠ f := by
        simp only [l, List.mem_map, List.mem_filter, bne_iff_ne]
        constructor
        · rintro ⟨d, ⟨hd, hne⟩, rfl⟩
          exact ⟨⟨d, hd, rfl⟩, hne⟩
        · rintro ⟨⟨d, hd, rfl⟩, hne⟩
          exact ⟨d, ⟨hd, hne⟩, rfl⟩
      rw [entry, member]
      split
      next hg => simp [hg, e]
      next hg => simpa [hg] using links.listed g
    · exact full (fun none => waiting (by
        show l = []
        simp [l, none]))
    · exact (others g hg).congr (by rw [entry, if_neg hg]) (fun _ _ hr _ => hr)
    · rw [entry, if_pos rfl]
  next i field =>
    obtain ⟨r, hr, hf⟩ := links.found f i field
    let s1 : State := { s with recalls := s.recalls.set i none }
    let e : Entry := { s.entry f with recallField := .none }
    let s2 := s1.putEntry f e
    have entry : ∀ g, s2.entry g = if g = f then e else s.entry g := fun g => entry_putEntry s1 f g e
    have recalls : ∀ j, s2.recalls.get j = if j = i then none else s.recalls.get j :=
      fun j => recalls_get_set s.recalls i j none
    have kept : ∀ {j r'}, s2.recalls.get j = some r' → s.recalls.get j = some r' ∧ r'.frame ≠ f := by
      intro j r' hr'
      rw [recalls] at hr'
      split at hr'
      · cases hr'
      next hj =>
        refine ⟨hr', fun hf' => hj ?_⟩
        have named := links.named j r' hr'
        rw [hf', field] at named
        cases named
        rfl
    have links2 : RecallLinks s.deferred s2 := by
      refine ⟨fun j r' hr' => ?_, fun g j hg => ?_, links.nodup, fun g => ?_⟩
      · rw [entry, if_neg (kept hr').2]
        exact links.named j r' (kept hr').1
      · rw [entry] at hg
        split at hg
        · cases hg
        next hgf =>
          obtain ⟨r', hr', hf'⟩ := links.found g j hg
          have hj : j ≠ i := fun e => by
            rw [e, hr] at hr'
            cases hr'
            exact hgf (hf'.symm.trans hf)
          exact ⟨r', by rw [recalls, if_neg hj]; exact hr', hf'⟩
      · rw [entry]
        split
        next hg =>
          have := links.listed f
          rw [field] at this
          simpa [hg, e] using this
        next => exact links.listed g
    have apart : f ∉ s.deferred.map Deferred.frame := fun hf' => by
      have deferred := (links.listed f).2 hf'
      simp [field] at deferred
    obtain ⟨but, same⟩ := recallBut_feedDeferred (i := i) s.deferred links2 (by rw [recalls, if_pos rfl])
      (fun waiting j hj => by rw [recalls, if_neg hj]; exact full waiting j)
      (fun g hg => (others g hg).congr (by rw [entry, if_neg hg]) (fun j r' hr' _ => (kept hr').1)) apart
    refine ⟨but, ?_⟩
    show ((State.feedDeferred i s.deferred s2).entry f).recallField = .none
    rw [same, entry, if_pos rfl]

end Sys2Proof.Proofs
end

section
/-! PROOFS. Advancement and the moves keep the recall unit sound. -/

namespace Sys2Proof.Proofs
set_option Elab.async false

open Sys2Proof.Machine Sys2Proof.Safety Sys2Proof.Laws

/-! ### Advancement -/

theorem needsRecall_unused {e : Entry} (h : inUse e.state = false) : needsRecall e = false := by
  simp [needsRecall, h]

theorem needsRecall_empty {e : Entry} (h : e.queue = []) : needsRecall e = false := by
  simp [needsRecall, h]

theorem unfit_unused {e : Entry} (h : inUse e.state = false) (r : RecallRec) : ¬ RecordFits e r :=
  fun fits => absurd fits.used (by simp [h])

/-- A frame whose field names no record has its records fit, whatever its entry. -/
theorem served_of_unneeded {s : State} {f : Nat} (fits : RecordsFit s f)
    (needs : needsRecall (s.entry f) = false) (waiters : WaitersRight (s.entry f)) : FrameServed s f :=
  ⟨fits, fun h => by simp [needs] at h, waiters⟩

/-- What advancement of a frame starts from. -/
structure Serving (f : Nat) (s : State) : Prop where
  but : RecallBut f s
  fits : RecordsFit s f
  waiters : WaitersRight (s.entry f)
  adv : Advanceable (s.entry f)

/-- The waiters that a grant leaves behind are right where R36 grants. -/
theorem waitersRight_granted {e : Entry} {h : WaitRec} {t : List WaitRec} (hq : e.queue = h :: t)
    (adv : Advanceable e) (waiters : WaitersRight e)
    (may : e.state = .free ∨ (e.state = .shared ∧ h.mode = .shared) ∨
      (e.state = .shared ∧ e.holders = onePort h.port)) :
    WaitersRight { e with queue := e.queue.tail, holders := e.holders.set h.port true,
                          state := heldState h.mode } := by
  obtain ⟨nodup, _⟩ := waiters
  rw [hq, List.map_cons] at nodup
  obtain ⟨fresh, nodup⟩ := List.nodup_cons.1 nodup
  refine ⟨by rw [hq]; exact nodup, fun priv w hw => ?_⟩
  rw [hq, List.tail_cons] at hw
  have other : w.port ≠ h.port := fun same => fresh (List.mem_map.2 ⟨w, hw, same⟩)
  show (e.holders.set h.port true).get w.port = false
  rw [perPort_get_set_ne _ _ other]
  rcases may with free | ⟨_, shared⟩ | ⟨_, sole⟩
  · rw [(advanceable_free free adv).1, noPorts_get]
  · simp [shared, heldState] at priv
  · simp [sole, onePort_get, other]

/-- After a grant the frame has no recall, and its other waiters are served on (R36). -/
theorem serving_grantHead {s : State} {f : Nat} {h : WaitRec} {t : List WaitRec}
    (forced upgraded : Bool) (serving : Serving f s) (hq : (s.entry f).queue = h :: t)
    (may : (s.entry f).state = .free ∨ ((s.entry f).state = .shared ∧ h.mode = .shared) ∨
      ((s.entry f).state = .shared ∧ (s.entry f).holders = onePort h.port)) :
    Serving f (s.grantHead f h forced upgraded) := by
  obtain ⟨but, fits, waiters, adv⟩ := serving
  let s1 := (s.putEntry f { s.entry f with queue := (s.entry f).queue.tail }).returnRecord h.port
  have but1 : RecallBut f s1 :=
    SameRecalls.but (s := s.putEntry f { s.entry f with queue := (s.entry f).queue.tail })
      ⟨fun _ => rfl, rfl, rfl⟩ (recallBut_putEntry but)
  obtain ⟨but2, none⟩ := recallBut_dropRecall but1
  have but4 : RecallBut f (s.grantHead f h forced upgraded) :=
    (SameRecalls.of_quiet (quiet_post _ h.port (.grant f h.mode h.tag forced false upgraded))).but
      (recallBut_putEntry (e := { (s1.dropRecall f).entry f with
        holders := ((s1.dropRecall f).entry f).holders.set h.port true,
        state := heldState h.mode }) but2)
  have field : ((s.grantHead f h forced upgraded).entry f).recallField = .none := by
    have entry : (s.grantHead f h forced upgraded).entry f =
        ((s1.dropRecall f).putEntry f { (s1.dropRecall f).entry f with
          holders := ((s1.dropRecall f).entry f).holders.set h.port true,
          state := heldState h.mode }).entry f := rfl
    rw [entry, entry_putEntry_same]
    exact none
  have granted := grantHead_entry s f h forced upgraded f
  rw [if_pos rfl] at granted
  refine ⟨but4, recordsFit_of_inactive but4.links (by simp [field]), ?_, .inl ?_⟩
  · rw [granted]
    exact waitersRight_granted hq adv waiters may
  · exact entrySound_of_recallField granted (entrySound_granted hq adv may)

theorem served_advanceFuel (forced : Bool) (f n : Nat) {s : State}
    (fuel : (s.entry f).queue.length ≤ n) (serving : Serving f s) :
    RecallBut f (State.advanceFuel forced f n s) ∧ FrameServed (State.advanceFuel forced f n s) f := by
  induction n generalizing s with
  | zero =>
    have empty := List.length_eq_zero_iff.1 (Nat.le_zero.1 fuel)
    exact ⟨serving.but, served_of_unneeded serving.fits (needsRecall_empty empty) serving.waiters⟩
  | succ n ih =>
    have rest : needsRecall (s.entry f) = false → RecallBut f s ∧ FrameServed s f :=
      fun unneeded => ⟨serving.but, served_of_unneeded serving.fits unneeded serving.waiters⟩
    rw [State.advanceFuel]
    split
    next hq => exact rest (needsRecall_empty hq)
    next h t hq =>
      have grant : ∀ u, (s.entry f).state = .free ∨ ((s.entry f).state = .shared ∧ h.mode = .shared) ∨
          ((s.entry f).state = .shared ∧ (s.entry f).holders = onePort h.port) →
          RecallBut f (State.advanceFuel forced f n (s.grantHead f h forced u)) ∧
            FrameServed (State.advanceFuel forced f n (s.grantHead f h forced u)) f := by
        intro u may
        refine ih ?_ (serving_grantHead forced u serving hq may)
        have granted := grantHead_entry s f h forced u f
        rw [if_pos rfl] at granted
        rw [granted]
        simpa [hq] using fuel
      have ensured : needsRecall (s.entry f) = true →
          RecallBut f (s.ensureRecall f) ∧ FrameServed (s.ensureRecall f) f :=
        served_ensureRecall serving.but serving.fits serving.waiters
      split
      next hst _ => exact grant _ (.inl hst)
      next hst hm => exact grant _ (.inr (.inl ⟨hst, hm⟩))
      next hst _ => exact grant _ (.inl hst)
      next hst _ =>
        split
        next sole => exact grant _ (.inr (.inr ⟨hst, sole⟩))
        next =>
          split
          next unasked => exact rest (by simp [needsRecall, unasked])
          next asks => exact ensured (by simp [needsRecall, hst, inUse, hq, asks])
      next hst =>
        refine ensured ?_
        have sound := advanceable_sound serving.adv (.inl (by simp [hst]))
        obtain ⟨q, holder⟩ : ∃ q, (s.entry f).holders = onePort q := by
          have holders := sound.1
          rwa [hst] at holders
        have apart := serving.waiters.2 hst h (by simp [hq])
        have asks : setIsEmpty (toReleaseOf (s.entry f)) = false := by
          by_contra empty
          have none := (setIsEmpty_iff _).1 (by simpa using empty) q
          rw [toReleaseOf, hq, holder] at none
          have hne : q ≠ h.port := fun e => by simp [holder, e] at apart
          simp [perPort_get_set_ne _ _ hne] at none
        simp [needsRecall, hst, inUse, hq, asks]
      next hst => exact rest (needsRecall_unused (by simp [hst, inUse]))
      next hst => exact rest (needsRecall_unused (by simp [hst, inUse]))
      next hst => exact rest (needsRecall_unused (by simp [hst, inUse]))
      next hst => exact rest (needsRecall_unused (by simp [hst, inUse]))

theorem recallsSound_advance {s : State} {f : Nat} (forced : Bool) (serving : Serving f s) :
    RecallsSound (s.advance forced f) :=
  (recallsSound_iff f).2 (served_advanceFuel forced f _ le_rfl serving)

theorem recallsSound_quiet {s t : State} (h : RecallsSound s) (q : Quiet s t) : RecallsSound t := by
  obtain ⟨but, served⟩ := (recallsSound_iff 0).1 h
  have same := SameRecalls.of_quiet q
  exact (recallsSound_iff 0).2 ⟨same.but but,
    served.congr (same.entry 0) (fun i r hr _ => same.recalls ▸ hr)⟩

/-! ### Leaving a frame -/

theorem waitersRight_fewer {d e : Entry} (h : WaitersRight d) (queue : e.queue.Sublist d.queue)
    (holders : ∀ p, e.holders.get p = true → d.holders.get p = true)
    (priv : e.state = .priv → d.state = .priv) : WaitersRight e := by
  refine ⟨h.1.sublist (queue.map _), fun hst w hw => ?_⟩
  by_contra held
  have apart := h.2 (priv hst) w (queue.subset hw)
  have held := holders w.port (by simpa using held)
  simp [apart] at held

/-- A frame without a holder has no record. -/
theorem unfit_noHolders {e : Entry} (h : e.holders = noPorts) (r : RecallRec) : ¬ RecordFits e r := by
  rintro ⟨_, _, asks, held⟩
  refine asks (perPort_ext (fun p => ?_))
  by_contra member
  have := held p (by simpa using member)
  simp [h] at this

/-- What is left of a frame after a holder has gone: its records fit what remains. -/
structure Left (f : Nat) (s : State) : Prop where
  but : RecallBut f s
  fits : RecordsFit s f
  waiters : WaitersRight (s.entry f)
  entry : EntrySound (s.entry f) ∨ (inUse (s.entry f).state = true ∧ (s.entry f).holders = noPorts)

theorem recallsSound_afterLeaving {s : State} {f : Nat} (forced : Bool) (left : Left f s) :
    RecallsSound (s.afterLeaving forced f) := by
  obtain ⟨but, fits, waiters, entry⟩ := left
  unfold State.afterLeaving
  dsimp only
  split
  next used =>
    split
    next empty =>
      have none : (s.entry f).holders = noPorts := by simpa [setIsEmpty] using empty
      let e : Entry := { s.entry f with state := .free, pinned := false }
      have inactive := fits.inactive but.links (unfit_noHolders none)
      have put : RecallBut f (s.putEntry f e) := recallBut_putEntry but
      refine recallsSound_advance forced ⟨put, recordsFit_of_inactive put.links ?_, ?_, .inr ?_⟩
      · rw [entry_putEntry_same]
        exact inactive
      · rw [entry_putEntry_same]
        exact ⟨waiters.1, nofun⟩
      · rw [entry_putEntry_same]
        exact ⟨rfl, none, rfl⟩
    next holders =>
      refine recallsSound_advance forced ⟨but, fits, waiters, .inl (entry.resolve_right (fun none => ?_))⟩
      simp [none.2, setIsEmpty] at holders
  next unused =>
    exact (recallsSound_iff f).2 ⟨but,
      served_of_unneeded fits (needsRecall_unused (by simpa using unused)) waiters⟩

theorem recallOf_some {s : State} {f : Nat} {i : Fin 8} {r : RecallRec} (h : s.recallOf f = some (i, r)) :
    (s.entry f).recallField = .active i ∧ s.recalls.get i = some r := by
  unfold State.recallOf at h
  split at h
  next j hj =>
    obtain ⟨r', hr', e⟩ := Option.map_eq_some_iff.1 h
    cases e
    exact ⟨hj, hr'⟩
  · cases h
  · cases h

/-- The one record of a frame whose field names it. -/
theorem RecallLinks.unique {l : List Deferred} {s : State} (h : RecallLinks l s) {f : Nat} {i j : Fin 8}
    {r : RecallRec} (field : (s.entry f).recallField = .active i) (hr : s.recalls.get j = some r)
    (hf : r.frame = f) : j = i := by
  have named := h.named j r hr
  rw [hf, field] at named
  cases named
  rfl

/-- A record of the worked-on frame is replaced by another of the same frame. -/
theorem recallBut_setRecord {s : State} {f : Nat} {i : Fin 8} {r r' : RecallRec} (but : RecallBut f s)
    (hr : s.recalls.get i = some r) (hf : r.frame = f) (hf' : r'.frame = f) :
    RecallBut f { s with recalls := s.recalls.set i (some r') } := by
  have recalls : ∀ j, (s.recalls.set i (some r')).get j =
      if j = i then some r' else s.recalls.get j := fun j => recalls_get_set s.recalls i j _
  obtain ⟨⟨named, found, nodup, listed⟩, full, others⟩ := but
  refine ⟨⟨fun j x hx => ?_, fun g j hg => ?_, nodup, listed⟩, fun waiting j => ?_, fun g hg => ?_⟩
  · change (s.recalls.set i (some r')).get j = some x at hx
    rw [recalls] at hx
    split at hx
    next hj =>
      cases hx
      rw [hf', hj, ← hf]
      exact named i r hr
    next => exact named j x hx
  · obtain ⟨x, hx, hxg⟩ := found g j hg
    show ∃ y, (s.recalls.set i (some r')).get j = some y ∧ y.frame = g
    rw [recalls]
    split
    next hj =>
      rw [hj, hr] at hx
      cases hx
      exact ⟨r', rfl, hf'.trans (hf.symm.trans hxg)⟩
    next => exact ⟨x, hx, hxg⟩
  · show (s.recalls.set i (some r')).get j ≠ none
    rw [recalls]
    split
    · simp
    · exact full waiting j
  · refine (others g hg).congr rfl (fun j x hx hxg => ?_)
    change (s.recalls.set i (some r')).get j = some x at hx
    rw [recalls] at hx
    split at hx
    · cases hx
      exact absurd (hxg.symm.trans hf') hg
    · exact hx

/-- A record still fits when its frame loses a holder who is not, or no longer, asked. -/
theorem recordFits_fewer {e : Entry} {r : RecallRec} {p : Port} {left : PortSet} (fits : RecordFits e r)
    (asks : left ≠ noPorts) (fewer : ∀ q, left.get q = true → r.toRelease.get q = true ∧ q ≠ p) :
    RecordFits { e with holders := e.holders.set p false } { r with toRelease := left } := by
  obtain ⟨used, ⟨w, t, hq, hport, hmode, hout⟩, _, held⟩ := fits
  refine ⟨used, ⟨w, t, hq, hport, hmode, ?_⟩, asks, fun q hq => ?_⟩
  · by_contra member
    have asked := (fewer w.port (by simpa using member)).1
    simp [hout] at asked
  · obtain ⟨asked, hqp⟩ := fewer q hq
    show (e.holders.set p false).get q = true
    rw [perPort_get_set_ne _ _ hqp]
    exact held q asked

/-- A port that has left the holders leaves the set of those asked, and the record goes where it was the last
(R59, R67, R68). -/
theorem recordsFit_leaveToRelease {s : State} {f : Nat} {e : Entry} {p : Port} (but : RecallBut f s)
    (entry : s.entry f = { e with holders := e.holders.set p false })
    (fits : ∀ i r, s.recalls.get i = some r → r.frame = f → RecordFits e r) :
    RecallBut f (s.leaveToRelease f p).1 ∧ RecordsFit (s.leaveToRelease f p).1 f := by
  unfold State.leaveToRelease
  split
  next none =>
    refine ⟨but, recordsFit_of_inactive but.links (fun i active => ?_)⟩
    obtain ⟨r, hr, _⟩ := but.links.found f i active
    simp [State.recallOf, active, hr] at none
  next i r active =>
    obtain ⟨field, hr⟩ := recallOf_some active
    obtain ⟨r', hr', hf⟩ := but.links.found f i field
    obtain rfl : r' = r := Option.some.inj (hr'.symm.trans hr)
    have fit := fits i r' hr hf
    split
    next asked =>
      dsimp only
      split
      next empty =>
        obtain ⟨dropped, none⟩ := recallBut_dropRecall but
        exact ⟨dropped, recordsFit_of_inactive dropped.links (by simp [none])⟩
      next remaining =>
        let left : RecallRec := { r' with toRelease := r'.toRelease.set p false }
        have set := recallBut_setRecord (r' := left) but hr hf hf
        refine ⟨set, fun j x hx hxf => ?_⟩
        have hj := set.links.unique field hx hxf
        change (s.recalls.set i (some left)).get j = some x at hx
        rw [recalls_get_set, if_pos hj] at hx
        cases hx
        show RecordFits (s.entry f) left
        rw [entry]
        refine recordFits_fewer fit (fun none => ?_) (fun q hq => ⟨set_false_get hq, fun e => ?_⟩)
        · simp [none, setIsEmpty] at remaining
        · rw [e, perPort_get_set_same] at hq
          cases hq
    next unasked =>
      refine ⟨but, fun j x hx hxf => ?_⟩
      have hj := but.links.unique field hx hxf
      rw [hj, hr] at hx
      cases hx
      rw [entry]
      exact recordFits_fewer fit fit.asks (fun q hq => ⟨hq, fun e => unasked (e ▸ hq)⟩)

theorem left_leave {s : State} {f : Nat} (h : RecallsSound s) (sound : EntrySound (s.entry f)) (p : Port) :
    Left f (s.leave f p).1 := by
  obtain ⟨but, served⟩ := (recallsSound_iff f).1 h
  let e : Entry := { s.entry f with holders := (s.entry f).holders.set p false }
  have put : RecallBut f (s.putEntry f e) := recallBut_putEntry but
  obtain ⟨but', fits⟩ := recordsFit_leaveToRelease put (entry_putEntry_same s f e) served.fits
  have left := leave_entry s f p
  refine ⟨but', fits, ?_, entrySound_fewerThen sound (fun _ => set_false_get) left⟩
  rw [left]
  exact waitersRight_fewer served.waiters (List.Sublist.refl _) (fun _ => set_false_get) id

/-! ### The moves -/

section Moves

variable {s : State}

/-- A frame that ends without a recall, and needs none. -/
theorem recallsSound_resting {f : Nat} (but : RecallBut f s)
    (inactive : ∀ i, (s.entry f).recallField ≠ .active i) (needs : needsRecall (s.entry f) = false)
    (waiters : WaitersRight (s.entry f)) : RecallsSound s :=
  (recallsSound_iff f).2 ⟨but,
    served_of_unneeded (recordsFit_of_inactive but.links inactive) needs waiters⟩

theorem unfit_empty {e : Entry} (h : e.queue = []) (r : RecallRec) : ¬ RecordFits e r := by
  rintro ⟨_, ⟨w, t, hq, _⟩, _, _⟩
  simp [h] at hq

theorem waitersRight_empty {e : Entry} (h : e.queue = []) : WaitersRight e := by
  simp [WaitersRight, h]

/-- A frame that can have no record is given an entry that needs none. -/
theorem recallsSound_put_unneeded {f : Nat} {e : Entry} (h : RecallsSound s)
    (unfit : ∀ r, ¬ RecordFits (s.entry f) r) (needs : needsRecall e = false) (waiters : WaitersRight e)
    (field : e.recallField = (s.entry f).recallField := by rfl) : RecallsSound (s.putEntry f e) := by
  obtain ⟨but, served⟩ := (recallsSound_iff f).1 h
  refine recallsSound_resting (recallBut_putEntry but field) (fun i => ?_) ?_ ?_
  · rw [entry_putEntry_same, field]
    exact served.fits.inactive but.links unfit i
  all_goals
    rw [entry_putEntry_same]
    assumption

/-- A frame is given an entry that its records fit as before. -/
theorem recallsSound_put_fits {f : Nat} {e : Entry} (h : RecallsSound s)
    (fits : ∀ r, RecordFits (s.entry f) r → RecordFits e r)
    (needs : needsRecall e = needsRecall (s.entry f)) (waiters : WaitersRight e)
    (field : e.recallField = (s.entry f).recallField := by rfl) : RecallsSound (s.putEntry f e) := by
  obtain ⟨but, served⟩ := (recallsSound_iff f).1 h
  refine (recallsSound_iff f).2 ⟨recallBut_putEntry but field, fun i r hr hf => ?_, ?_, ?_⟩
  all_goals rw [entry_putEntry_same]
  · exact fits r (served.fits i r hr hf)
  · rw [needs, field]
    exact served.pursued
  · exact waiters

theorem recallsSound_put {f : Nat} {e : Entry} (h : RecallsSound s) (sound : EntrySound (s.entry f))
    (change : Rehold s f e) : RecallsSound (s.putEntry f e) := by
  have waiters : WaitersRight (s.entry f) := h.1 f
  cases change with
  | same => exact recallsSound_put_fits h (fun _ => id) rfl waiters
  | hold p m online free =>
    have empty := sound.2.2 (.inl free)
    exact recallsSound_put_unneeded h (unfit_empty empty) (needsRecall_empty empty)
      (waitersRight_empty empty)
  | join p online shared empty =>
    exact recallsSound_put_unneeded h (unfit_empty empty) (needsRecall_empty empty)
      (waitersRight_empty empty)
  | upgrade p shared sole empty =>
    exact recallsSound_put_unneeded h (unfit_empty empty) (needsRecall_empty empty)
      (waitersRight_empty empty)
  | downgrade priv =>
    refine recallsSound_put_fits h (fun r fits => ⟨rfl, fits.head, fits.asks, fits.held⟩) ?_
      ⟨waiters.1, nofun⟩
    simp [needsRecall, toReleaseOf, priv, inUse]
  | pin used empty =>
    exact recallsSound_put_unneeded h (unfit_empty empty) (needsRecall_empty empty)
      (waitersRight_empty empty)
  | unpin =>
    exact recallsSound_put_fits h (fun r fits => ⟨fits.used, fits.head, fits.asks, fits.held⟩) rfl waiters
  | strip unused =>
    have idle : inUse (s.entry f).state = false := by
      cases hst : (s.entry f).state <;> simp [hst, scrubbable, inUse] at unused ⊢
    refine recallsSound_put_unneeded h (unfit_unused idle) (needsRecall_unused idle) ⟨waiters.1, ?_⟩
    intro priv
    have priv : (s.entry f).state = .priv := priv
    simp [priv, inUse] at idle

theorem serving_of_sound {f : Nat} (h : RecallsSound s) (sound : EntrySound (s.entry f)) :
    Serving f s := by
  obtain ⟨but, served⟩ := (recallsSound_iff f).1 h
  exact ⟨but, served.fits, served.waiters, .inl sound⟩

/-- A claim that waits on a PRIVATE frame is not its holder's (R31). -/
theorem claimCase_wait_apart {e : Entry} {p : Port} {m : Mode} (waits : claimCase e p m = .wait)
    (priv : e.state = .priv) : e.holders.get p = false := by
  simp only [claimCase, priv] at waits
  split at waits
  · cases m <;> cases waits
  next apart => simpa using apart

theorem waitersRight_joined {e : Entry} {w : WaitRec} (h : WaitersRight e)
    (waits : claimCase e w.port w.mode = .wait) (single : waitsIn e.queue w.port = false) :
    WaitersRight { e with queue := e.queue ++ [w] } := by
  refine ⟨?_, fun priv x hx => ?_⟩
  · rw [List.map_append, List.nodup_append]
    refine ⟨h.1, List.nodup_singleton _, fun a ha b hb e => ?_⟩
    obtain ⟨x, hx, rfl⟩ := List.mem_map.1 ha
    have hb : b = w.port := by simpa using hb
    exact (waitsIn_false_iff _ _).1 single x hx (e.trans hb)
  · rcases List.mem_append.1 hx with hx | hx
    · exact h.2 priv x hx
    · rw [List.mem_singleton.1 hx]
      exact claimCase_wait_apart (e := e) waits priv

theorem recallsSound_enqueue {f : Nat} {w : WaitRec} (h : RecallsSound s) (sound : EntrySound (s.entry f))
    (waits : claimCase (s.entry f) w.port w.mode = .wait) (used : (s.entry f).state ≠ .poisoned)
    (single : waitsIn (s.entry f).queue w.port = false) :
    RecallsSound (if (s.entry f).queue.isEmpty then (State.joined s f w).advance false f
      else State.joined s f w) := by
  obtain ⟨but, served⟩ := (recallsSound_iff f).1 h
  have entry := joined_entry s f w
  have waiters := waitersRight_joined served.waiters waits single
  have taken : RecallBut f (s.takeRecord w.port) :=
    SameRecalls.but (s := s) ⟨fun _ => rfl, rfl, rfl⟩ but
  have but' : RecallBut f (State.joined s f w) := recallBut_putEntry taken
  split
  next empty =>
    have empty : (s.entry f).queue = [] := by simpa using empty
    have inactive := served.fits.inactive but.links (unfit_empty empty)
    obtain ⟨free, pinned⟩ := claimCase_wait_unpinned sound waits used
    refine recallsSound_advance false ⟨but', recordsFit_of_inactive but'.links ?_, ?_, .inl ?_⟩
    · rw [entry]
      exact inactive
    · rw [entry]
      exact waiters
    · rw [entry]
      exact ⟨sound.1, sound.2.1, by simp [free, used, pinned]⟩
  next queued =>
    obtain ⟨x, t, hq⟩ : ∃ x t, (s.entry f).queue = x :: t :=
      List.exists_cons_of_ne_nil (by simpa using queued)
    refine (recallsSound_iff f).2 ⟨but', fun i r hr hf => ?_, ?_, by rw [entry]; exact waiters⟩
    · obtain ⟨used, ⟨y, u, hyq, rest⟩, asks, held⟩ := served.fits i r hr hf
      rw [entry]
      exact ⟨used, ⟨y, u ++ [w], by rw [hyq]; rfl, rest⟩, asks, held⟩
    · rw [entry]
      intro needs
      refine served.pursued ?_
      simpa [needsRecall, toReleaseOf, hq] using needs

theorem recallsSound_withdraw {f : Nat} {p : Port} (h : RecallsSound s) (sound : EntrySound (s.entry f)) :
    RecallsSound (s.withdraw f p) := by
  obtain ⟨but, served⟩ := (recallsSound_iff f).1 h
  let e : Entry := { s.entry f with queue := (s.entry f).queue.filter (fun w => w.port != p) }
  let s1 := (s.putEntry f e).returnRecord p
  have entry : s1.entry f = e := entry_putEntry_same s f e
  have waiters : WaitersRight e :=
    waitersRight_fewer served.waiters List.filter_sublist (fun _ => id) id
  have sound' : EntrySound e := ⟨sound.1, sound.2.1, fun hst => by simp [e, sound.2.2 hst]⟩
  have but1 : RecallBut f s1 :=
    SameRecalls.but (s := s.putEntry f e) ⟨fun _ => rfl, rfl, rfl⟩ (recallBut_putEntry but)
  unfold State.withdraw
  dsimp only
  split
  next head =>
    obtain ⟨but2, none⟩ := recallBut_dropRecall but1
    have entry2 := dropRecall_entry s1 f f
    rw [entry] at entry2
    refine recallsSound_advance false
      ⟨but2, recordsFit_of_inactive but2.links (by simp [none]), ?_,
        .inl (entrySound_of_recallField entry2 sound')⟩
    rw [entry2]
    exact waiters
  next behind =>
    have headKept : ∀ x t, (s.entry f).queue = x :: t →
        ∃ u, e.queue = x :: u := fun x t hq => by
      have apart : x.port ≠ p := by simpa [hq, isHead] using behind
      exact ⟨t.filter (fun w => w.port != p), by
        show (s.entry f).queue.filter _ = _
        rw [hq, List.filter_cons_of_pos (by simpa using apart)]⟩
    refine (recallsSound_iff f).2 ⟨but1, fun i r hr hf => ?_, ?_, ?_⟩
    · obtain ⟨used, ⟨y, u, hyq, rest⟩, asks, held⟩ := served.fits i r hr hf
      obtain ⟨v, hv⟩ := headKept y u hyq
      show RecordFits (s1.entry f) r
      rw [entry]
      exact ⟨used, ⟨y, v, hv, rest⟩, asks, held⟩
    · show needsRecall (s1.entry f) = true → (s1.entry f).recallField ≠ .none
      rw [entry]
      intro needs
      refine served.pursued ?_
      cases hq : (s.entry f).queue with
      | nil =>
        rw [needsRecall_empty (by simp [e, hq])] at needs
        cases needs
      | cons x t =>
        obtain ⟨v, hv⟩ := headKept x t hq
        have asks : toReleaseOf e = toReleaseOf (s.entry f) := by rw [toReleaseOf, toReleaseOf, hv, hq]
        simpa [needsRecall, asks, hv, hq] using needs
    · show WaitersRight (s1.entry f)
      rw [entry]
      exact waiters

/-- A frame without a recall becomes SCRUBBING (R124). -/
theorem recallsSound_toScrub {f : Nat} (origin : Origin) (notify : Option Port) (but : RecallBut f s)
    (inactive : ∀ i, (s.entry f).recallField ≠ .active i) (waiters : WaitersRight (s.entry f)) :
    RecallsSound (State.toScrub s f origin notify) := by
  let e : Entry := { s.entry f with state := .scrubbing, pinned := false }
  have put : RecallsSound (s.putEntry f e) := by
    refine recallsSound_resting (recallBut_putEntry but) ?_ ?_ ?_
    all_goals rw [entry_putEntry_same]
    · exact inactive
    · exact needsRecall_unused rfl
    · exact ⟨waiters.1, nofun⟩
  exact put

theorem recallsSound_clear {f : Nat} {p : Port} (origin : Origin) (notify : Option Port)
    (h : RecallsSound s) (sound : EntrySound (s.entry f)) :
    RecallsSound (State.toScrub ((s.leave f p).1.dropRecall f) f origin notify) := by
  have left := left_leave h sound p
  obtain ⟨but, none⟩ := recallBut_dropRecall left.but
  refine recallsSound_toScrub origin notify but (by simp [none]) ?_
  rw [dropRecall_entry (s.leave f p).1 f f]
  exact left.waiters

/-- A frame that was not in use is freed, and its waiters served. -/
theorem recallsSound_freed {f : Nat} {u : State} (h : RecallsSound s) (unused : inUse (s.entry f).state = false)
    (none : (s.entry f).holders = noPorts) (pinned : (s.entry f).pinned = false)
    (told : Quiet (s.putEntry f { s.entry f with state := .free }) u) :
    RecallsSound (u.advance false f) := by
  obtain ⟨but, served⟩ := (recallsSound_iff f).1 h
  have inactive := served.fits.inactive but.links (unfit_unused unused)
  have put : RecallBut f (s.putEntry f { s.entry f with state := .free }) := recallBut_putEntry but
  have but' := (SameRecalls.of_quiet told).but put
  have entry : u.entry f = { s.entry f with state := .free } := by
    rw [told.entry, entry_putEntry_same]
  refine recallsSound_advance false ⟨but', recordsFit_of_inactive but'.links ?_, ?_, .inr ?_⟩
  all_goals rw [entry]
  · exact inactive
  · exact ⟨served.waiters.1, nofun⟩
  · exact ⟨rfl, none, pinned⟩

theorem recallsSound_quarantine {f : Nat} {p : Port} (h : RecallsSound s) :
    RecallsSound (s.quarantine f p) := by
  obtain ⟨but, served⟩ := (recallsSound_iff f).1 h
  let e : Entry := { s.entry f with holders := (s.entry f).holders.set p false, state := .quarantined,
                                    pinned := false }
  have put : RecallBut f (s.putEntry f e) := recallBut_putEntry but
  obtain ⟨but', none⟩ := recallBut_dropRecall put
  have entry := dropRecall_entry (s.putEntry f e) f f
  rw [entry_putEntry_same] at entry
  refine recallsSound_quiet (recallsSound_resting but' (by simp [none]) ?_ ?_) (quiet_postSet _ _ _)
  all_goals rw [entry]
  · exact needsRecall_unused rfl
  · exact ⟨served.waiters.1, nofun⟩

theorem refuseWaiters_same (f : Nat) (l : List WaitRec) (s : State) :
    SameRecalls s (State.refuseWaiters f l s) := by
  refine ⟨refuseWaiters_entry f l s, ?_, ?_⟩
  all_goals
    have change := (directoryChange_refuseWaiters f l s)
    induction l generalizing s with
    | nil => rfl
    | cons w rest ih => exact ih _ (directoryChange_refuseWaiters f rest _)

theorem recallsSound_poison {f : Nat} (accessor : Option Port) (h : RecallsSound s) :
    RecallsSound (s.poison f accessor) := by
  obtain ⟨but, served⟩ := (recallsSound_iff f).1 h
  let s1 := (s.putEntry f { s.entry f with state := .poisoned, pinned := false }).dropRecall f
  let told :=
    match accessor with
    | some p => (s.entry f).holders.set p true
    | none => (s.entry f).holders
  let s2 := s1.postSet told (.poisoned f)
  let s3 := State.refuseWaiters f (s.entry f).queue s2
  obtain ⟨but1, none⟩ := recallBut_dropRecall
    (recallBut_putEntry (e := { s.entry f with state := .poisoned, pinned := false }) but)
  have but3 : RecallBut f s3 := (refuseWaiters_same f _ s2).but
    ((SameRecalls.of_quiet (quiet_postSet s1 told _)).but but1)
  have entry3 : s3.entry f = s1.entry f := by rw [refuseWaiters_entry, postSet_entry]
  have state : (s1.entry f).state = .poisoned := by
    rw [dropRecall_entry _ f f, entry_putEntry_same]
  show RecallsSound (s3.putEntry f { s3.entry f with queue := [] })
  refine recallsSound_resting (recallBut_putEntry but3) ?_ ?_ ?_
  all_goals rw [entry_putEntry_same, entry3]
  · simp [s1, none]
  · exact needsRecall_empty rfl
  · exact waitersRight_empty rfl

theorem recallsSound_expire (h : RecallsSound s) (r : RecallRec)
    (sound : EntrySound (s.entry r.frame)) : RecallsSound (s.expireRecall r) := by
  obtain ⟨but, served⟩ := (recallsSound_iff r.frame).1 h
  let e : Entry :=
    { s.entry r.frame with holders := withoutSet (s.entry r.frame).holders r.toRelease }
  let s2 := (s.putEntry r.frame e).postSet r.toRelease (.revoked r.frame .timeout)
  have but2 : RecallBut r.frame s2 :=
    (SameRecalls.of_quiet (quiet_postSet _ _ _)).but (recallBut_putEntry but)
  obtain ⟨but3, none⟩ := recallBut_dropRecall but2
  have entry := dropRecall_entry s2 r.frame r.frame
  have entry2 : s2.entry r.frame = e := by rw [postSet_entry, entry_putEntry_same]
  rw [entry2] at entry
  have fewer : ∀ p, e.holders.get p = true → (s.entry r.frame).holders.get p = true := fun p hp => by
    have hp : (withoutSet (s.entry r.frame).holders r.toRelease).get p = true := hp
    rw [withoutSet_get, Bool.and_eq_true] at hp
    exact hp.1
  refine recallsSound_afterLeaving true ⟨but3, recordsFit_of_inactive but3.links (by simp [none]), ?_,
    entrySound_fewerThen sound fewer entry⟩
  rw [entry]
  exact waitersRight_fewer served.waiters (List.Sublist.refl _) fewer id

theorem move_keeps_recallsSound {C : Prop} {s t : State} (move : Move C s t) (dir : DirSound s)
    (h : RecallsSound s) : RecallsSound t := by
  have sound := dir.1
  cases move with
  | quiet q => exact recallsSound_quiet h q
  | put change => exact recallsSound_put h (sound _) change
  | advance forced f => exact recallsSound_advance forced (serving_of_sound h (sound f))
  | enqueue _ waits used single _ _ => exact recallsSound_enqueue h (sound _) waits used single
  | withdraw _ => exact recallsSound_withdraw h (sound _)
  | leave f p => exact recallsSound_afterLeaving false (left_leave h (sound f) p)
  | clear _ _ _ _ _ => exact recallsSound_clear _ _ h (sound _)
  | @scrub f _ _ unused _ =>
    have idle : inUse (s.entry f).state = false := by
      rcases unused with uninit | ⟨scrubs, _⟩
      · simp [uninit, inUse]
      · cases hst : (s.entry f).state <;> simp [hst, scrubbable, inUse] at scrubs ⊢
    obtain ⟨but, served⟩ := (recallsSound_iff f).1 h
    exact recallsSound_toScrub _ _ but (served.fits.inactive but.links (unfit_unused idle)) served.waiters
  | @free f quarantined =>
    have unused : inUse (s.entry f).state = false := by simp [quarantined, inUse]
    exact recallsSound_freed h unused (entrySound_noHolders (sound f) unused (by simp [quarantined]))
      (entrySound_unpinned (sound f) unused) (Quiet.refl _)
  | @finish d rest u front told =>
    have scrubbing : (s.entry d.frame).state = .scrubbing := (dir.2.2.2 d.frame).2 (by simp [front])
    have unused : inUse (s.entry d.frame).state = false := by simp [scrubbing, inUse]
    have none := entrySound_noHolders (sound d.frame) unused (by simp [scrubbing])
    exact recallsSound_freed (s := { s with scrubQueue := rest }) h unused none
      (entrySound_unpinned (sound d.frame) unused) told
  | quarantine _ _ => exact recallsSound_quarantine h
  | poison accessor _ => exact recallsSound_poison accessor h
  | expire _ _ => exact recallsSound_expire h _ (sound _)
  | forget _ _ _ _ => exact h

end Moves

/-! ### The statement -/

theorem recallsSound_of_reset {s : State} (dir : s.dir = []) (recalls : s.recalls = Vector.replicate 8 none)
    (deferred : s.deferred = []) : RecallsSound s := by
  have entry := entry_of_dir_nil dir
  have none : ∀ i, s.recalls.get i = none := fun i => by simp [recalls, Vector.get_eq_getElem]
  refine ⟨fun f => entry f ▸ waitersRight_empty rfl, fun i r hr => by simp [none] at hr,
    ⟨fun f i hi => ?_, by simp [deferred], fun f => ?_⟩, fun f needs => ?_, fun waiting => absurd deferred waiting⟩
  · rw [entry] at hi
    cases hi
  · simp [entry, deferred, Entry.reset]
  · rw [entry] at needs
    cases needs

theorem recallsSound_partReset {s t : State} (h : exec .partReset s = .next t) : RecallsSound t := by
  cases h
  exact recallsSound_of_reset rfl rfl rfl

theorem moves_keep_sound {C : Prop} {s t : State} (run : Moves C s t) (dir : DirSound s)
    (h : RecallsSound s) : DirSound t ∧ RecallsSound t :=
  run.keeps (I := fun u => DirSound u ∧ RecallsSound u)
    (fun _ _ move hu => ⟨move_keeps_dirSound move hu.1, move_keeps_recallsSound move hu.1 hu.2⟩) ⟨dir, h⟩

theorem step_keeps_recallsSound {s t : State} (hwf : Directory.wf s.dir) (hs : DirectorySound s)
    (hr : RecallsSound s) (h : step s = .next t) : RecallsSound t := by
  obtain ⟨entries, scrub, hold⟩ := hs
  rcases step_moves (C := False) hwf False.elim h with run | ⟨rest, hpart⟩ | ⟨strap, rest, hrst, rfl⟩
  · exact (moves_keep_sound run ⟨entries, scrub⟩ hr).2
  · exact recallsSound_partReset hpart
  · obtain ⟨dir, queue, _, recalls, deferred, _⟩ := hold hrst
    exact (moves_keep_sound (moves_released (C := False) { s with pending := rest } strap dir queue)
      (dirSound_of_dir_nil dir queue) (recallsSound_of_reset dir recalls deferred)).2

/-- Settles O11: every move leaves its frame with the recall it needs, and the others alone. -/
theorem stepKeepsRecallsSound : Obligations.StepKeepsRecallsSound := by
  rintro s t ⟨hwf, hdir, hr⟩ h
  exact ⟨step_keeps_directory hwf h, step_keeps_dirSound hwf hdir h, step_keeps_recallsSound hwf hdir hr h⟩

end Sys2Proof.Proofs
end

section
/-! PROOFS. An OFFLINE port is absent from the directory and has no map entry (R165), move by move: who comes to
hold or to wait is ONLINE. -/

namespace Sys2Proof.Proofs
set_option Elab.async false

open Sys2Proof.Machine Sys2Proof.Safety Sys2Proof.Laws

/-- An OFFLINE port neither holds nor waits, and has no map entry. -/
def OfflineAbsent (s : State) : Prop :=
  ∀ p, (s.unit p).online = false →
    (∀ f, Absent s f p) ∧ (s.unit p).map0 = [] ∧ (s.unit p).map1 = []

/-- No unit goes OFFLINE, and none that is gains a map entry. -/
def UnitsStay (s t : State) : Prop :=
  ∀ p, (t.unit p).online = false → (s.unit p).online = false ∧
    ((s.unit p).map0 = [] ∧ (s.unit p).map1 = [] → (t.unit p).map0 = [] ∧ (t.unit p).map1 = [])

theorem UnitsStay.trans {s t u : State} (h : UnitsStay s t) (k : UnitsStay t u) : UnitsStay s u :=
  fun p off => ⟨(h p (k p off).1).1, fun empty => (k p off).2 ((h p (k p off).1).2 empty)⟩

theorem UnitsStay.of_quiet {s t : State} (h : Quiet s t) : UnitsStay s t :=
  fun p off => ⟨(h.unit p).online off, (h.unit p).maps off⟩

theorem UnitsStay.of_directoryChange {s t : State} (h : DirectoryChange s t) : UnitsStay s t := by
  intro p off
  have unit := h.2 p
  unfold UnitDirectoryChange at unit
  rw [unit] at off ⊢
  exact ⟨off, id⟩

theorem offlineAbsent_noNewcomer {s t : State} (h : OfflineAbsent s) (entries : NoNewcomer s t)
    (units : UnitsStay s t) : OfflineAbsent t := fun p off => by
  obtain ⟨offBefore, maps⟩ := units p off
  obtain ⟨absent, empty⟩ := h p offBefore
  exact ⟨fun f => entries.absent (absent f), maps empty⟩

/-- A new entry whose holders and waiters held or waited, or are ONLINE. -/
theorem offlineAbsent_putEntry {s : State} {f : Nat} {e : Entry} (h : OfflineAbsent s)
    (holders : ∀ p, e.holders.get p = true → (s.entry f).holders.get p = true ∨ (s.unit p).online = true)
    (queue : ∀ p, waitsIn e.queue p = true →
      waitsIn (s.entry f).queue p = true ∨ (s.unit p).online = true) : OfflineAbsent (s.putEntry f e) := by
  intro p off
  rw [putEntry_unit] at off ⊢
  obtain ⟨absent, maps⟩ := h p off
  refine ⟨fun g => ?_, maps⟩
  unfold Absent
  rw [entry_putEntry]
  split
  · constructor
    · by_contra member
      rcases holders p (by simpa using member) with held | on
      · exact absurd held (by simp [(absent f).1])
      · exact absurd on (by simpa using off)
    · by_contra member
      rcases queue p (by simpa using member) with waits | on
      · exact absurd waits (by simp [(absent f).2])
      · exact absurd on (by simpa using off)
  · exact absent g

theorem offlineAbsent_put {s : State} {f : Nat} {e : Entry} (h : OfflineAbsent s) (change : Rehold s f e) :
    OfflineAbsent (s.putEntry f e) := by
  have queue := rehold_queue change
  refine offlineAbsent_putEntry h ?_ (fun p hp => .inl (queue ▸ hp))
  intro p hp
  cases change with
  | hold q m online free =>
    have hpq : p = q := by simpa [onePort_get] using hp
    exact .inr (hpq ▸ online)
  | join q online shared alone =>
    have member : ((s.entry f).holders.set q true).get p = true := hp
    rw [perPort_get_set] at member
    split at member
    next hpq => exact .inr (hpq ▸ online)
    next => exact .inl member
  | strip unused => exact absurd hp (by simp)
  | _ => exact .inl hp

theorem noNewcomer_toScrub (s : State) (f : Nat) (origin : Origin) (notify : Option Port) :
    NoNewcomer s (State.toScrub s f origin notify) :=
  NoNewcomer.of_putEntry (s := s) (f := f) (e := { s.entry f with state := .scrubbing, pinned := false })
    (fun _ => id) (List.Sublist.refl _)

theorem unitsStay_toScrub (s : State) (f : Nat) (origin : Origin) (notify : Option Port) :
    UnitsStay s (State.toScrub s f origin notify) :=
  UnitsStay.of_directoryChange (t := s.putEntry f { s.entry f with state := .scrubbing, pinned := false })
    (directoryChange_putEntry _ _ _)

theorem noNewcomer_poison (s : State) (f : Nat) (accessor : Option Port) :
    NoNewcomer s (s.poison f accessor) := by
  intro g q
  rw [poison_entry s f accessor g]
  split
  next hg =>
    subst hg
    exact ⟨.inl, nofun⟩
  next => exact ⟨.inl, id⟩

theorem noNewcomer_expire (s : State) (r : RecallRec) : NoNewcomer s (s.expireRecall r) := by
  let s1 := s.putEntry r.frame
    { s.entry r.frame with holders := withoutSet (s.entry r.frame).holders r.toRelease }
  let s2 := s1.postSet r.toRelease (.revoked r.frame .timeout)
  have fewer : NoNewcomer s s1 := by
    refine NoNewcomer.of_putEntry (s := s) (f := r.frame)
      (e := { s.entry r.frame with holders := withoutSet (s.entry r.frame).holders r.toRelease })
      (fun q hq => ?_) (List.Sublist.refl _)
    have hq : (withoutSet (s.entry r.frame).holders r.toRelease).get q = true := hq
    rw [withoutSet_get, Bool.and_eq_true] at hq
    exact hq.1
  have told : NoNewcomer s1 s2 := NoNewcomer.of_entry (fun g => postSet_entry _ _ _ g)
  exact ((fewer.trans told).trans (noNewcomer_dropRecall s2 r.frame)).trans (noNewcomer_afterLeaving _ _ _)

theorem directoryChange_expire (s : State) (r : RecallRec) : DirectoryChange s (s.expireRecall r) :=
  (((directoryChange_putEntry s r.frame _).trans (directoryChange_postSet _ _ _)).trans
    (directoryChange_dropRecall _ _)).trans (directoryChange_afterLeaving _ _ _)

theorem directoryChange_quarantine (s : State) (f : Nat) (p : Port) :
    DirectoryChange s (s.quarantine f p) :=
  ((directoryChange_putEntry s f _).trans (directoryChange_dropRecall _ _)).trans
    (directoryChange_postSet _ _ _)

theorem offlineAbsent_enqueue {s : State} {f : Nat} {w : WaitRec} (h : OfflineAbsent s)
    (online : (s.unit w.port).online = true) :
    OfflineAbsent (if (s.entry f).queue.isEmpty then (State.joined s f w).advance false f
      else State.joined s f w) := by
  have unit : ∀ p, ((s.takeRecord w.port).unit p) =
      if p = w.port then { s.unit w.port with waiting := (s.unit w.port).waiting + 1 } else s.unit p :=
    fun p => setUnit_unit s w.port p _
  have units : UnitsStay s (s.takeRecord w.port) := by
    intro p off
    rw [unit] at off ⊢
    split at off
    next hp =>
      have off : (s.unit w.port).online = false := off
      simp [online] at off
    next hp =>
      rw [if_neg hp]
      exact ⟨off, id⟩
  have taken : OfflineAbsent (s.takeRecord w.port) :=
    offlineAbsent_noNewcomer h (NoNewcomer.of_entry (fun _ => rfl)) units
  have joined : OfflineAbsent (State.joined s f w) := by
    refine offlineAbsent_putEntry taken (fun p => .inl) (fun p hp => ?_)
    obtain ⟨x, hx, rfl⟩ := (waitsIn_iff _ p).1 hp
    rcases List.mem_append.1 hx with hx | hx
    · exact .inl ((waitsIn_iff _ _).2 ⟨x, hx, rfl⟩)
    · rw [List.mem_singleton.1 hx, unit, if_pos rfl]
      exact .inr online
  split
  · exact offlineAbsent_noNewcomer joined (noNewcomer_advance _ _ _)
      (UnitsStay.of_directoryChange (directoryChange_advance _ _ _))
  · exact joined

theorem move_keeps_offlineAbsent {s t : State} (move : Move True s t) (h : OfflineAbsent s) :
    OfflineAbsent t := by
  have keep : NoNewcomer s t → DirectoryChange s t → OfflineAbsent t := fun entries change =>
    offlineAbsent_noNewcomer h entries (UnitsStay.of_directoryChange change)
  cases move with
  | quiet q => exact offlineAbsent_noNewcomer h (NoNewcomer.of_entry q.entry) (UnitsStay.of_quiet q)
  | put change => exact offlineAbsent_put h change
  | advance forced f => exact keep (noNewcomer_advance s forced f) (directoryChange_advance s forced f)
  | enqueue online _ _ _ _ _ => exact offlineAbsent_enqueue h online
  | @withdraw f p _ => exact keep (noNewcomer_withdraw s f p) (directoryChange_withdraw s f p)
  | leave f p =>
    exact keep ((noNewcomer_leave s f p).trans (noNewcomer_afterLeaving _ _ _))
      ((directoryChange_leave s f p).trans (directoryChange_afterLeaving _ _ _))
  | @clear f p origin notify _ _ _ =>
    exact offlineAbsent_noNewcomer h
      (((noNewcomer_leave s f p).trans (noNewcomer_dropRecall _ f)).trans (noNewcomer_toScrub _ _ _ _))
      ((UnitsStay.of_directoryChange ((directoryChange_leave s f p).trans
        (directoryChange_dropRecall _ f))).trans (unitsStay_toScrub _ _ _ _))
  | scrub origin notify _ _ =>
    exact offlineAbsent_noNewcomer h (noNewcomer_toScrub s _ _ _) (unitsStay_toScrub s _ _ _)
  | @free f _ =>
    exact keep ((NoNewcomer.of_putEntry (s := s) (f := f) (e := { s.entry f with state := .free })
      (fun _ => id) (List.Sublist.refl _)).trans (noNewcomer_advance _ _ _))
      ((directoryChange_putEntry s f _).trans (directoryChange_advance _ _ _))
  | @finish d rest u _ told =>
    let s1 : State := { s with scrubQueue := rest }
    have freed : NoNewcomer s1 (s1.putEntry d.frame { s.entry d.frame with state := .free }) :=
      NoNewcomer.of_putEntry (s := s1) (fun _ => id) (List.Sublist.refl _)
    exact offlineAbsent_noNewcomer (s := s1) h
      ((freed.trans (NoNewcomer.of_entry told.entry)).trans (noNewcomer_advance _ _ _))
      (((UnitsStay.of_directoryChange (directoryChange_putEntry s1 _ _)).trans
        (UnitsStay.of_quiet told)).trans (UnitsStay.of_directoryChange (directoryChange_advance _ _ _)))
  | @quarantine f p priv _ =>
    have same : s.giveUp f p = s.quarantine f p := if_pos priv
    exact keep (same ▸ noNewcomer_giveUp s f p) (directoryChange_quarantine s f p)
  | @poison f accessor _ => exact keep (noNewcomer_poison s f accessor) (directoryChange_poison s f accessor)
  | @expire f i r _ _ => exact keep (noNewcomer_expire s r) (directoryChange_expire s r)
  | @forget p u waits holds _ maps =>
    intro q off
    rw [setUnit_unit] at off ⊢
    split at off
    next hq =>
      subst hq
      rw [if_pos rfl]
      exact ⟨fun f => ⟨holds trivial f, waits f⟩, maps⟩
    next hq =>
      rw [if_neg hq]
      exact h q off

/-- Who is asked to release a frame holds it (R53), so that an OFFLINE port is not asked. -/
theorem offlineHoldsNothing_of_absent {s : State} (h : OfflineAbsent s) (hr : RecallsSound s) :
    OfflineHoldsNothing s := by
  intro p off
  obtain ⟨absent, maps⟩ := h p off
  refine ⟨absent, fun i r hi => ?_, maps⟩
  obtain ⟨_, _, _, _, held⟩ := hr.2.1 i r hi
  by_contra asked
  have holds := held p (by simpa using asked)
  simp [(absent r.frame).1] at holds

theorem offlineAbsent_of_holdsNothing {s : State} (h : OfflineHoldsNothing s) : OfflineAbsent s :=
  fun p off => ⟨(h p off).1, (h p off).2.2⟩

theorem offlineAbsent_of_reset {s : State} (dir : s.dir = [])
    (maps : ∀ p, (s.unit p).map0 = [] ∧ (s.unit p).map1 = []) : OfflineAbsent s := by
  intro p _
  refine ⟨fun f => ?_, maps p⟩
  rw [Absent, entry_of_dir_nil dir]
  exact ⟨noPorts_get p, rfl⟩

theorem step_keeps_offlineAbsent {s t : State} (hwf : Directory.wf s.dir) (hs : DirectorySound s)
    (counts : HoldingCountsRight s) (h : OfflineAbsent s) (hstep : step s = .next t) : OfflineAbsent t := by
  rcases step_moves (C := True) hwf (fun _ => counts) hstep with run | ⟨rest, hpart⟩ |
    ⟨strap, rest, hrst, rfl⟩
  · exact run.keeps (fun _ _ move => move_keeps_offlineAbsent move) h
  · cases hpart
    exact offlineAbsent_of_reset rfl (fun p => by rw [afterPartReset_unit]; exact ⟨rfl, rfl⟩)
  · obtain ⟨dir, queue, _⟩ := hs.2.2 hrst
    refine (moves_released (C := True) { s with pending := rest } strap dir queue).keeps
      (fun _ _ move => move_keeps_offlineAbsent move) ?_
    exact h

/-- Settles O7: bounded queues edit by edit, absence move by move. -/
theorem stepKeepsQueueBounds : Obligations.StepKeepsQueueBounds :=
  ⟨fun _ _ hs h => step_keeps_queuesBounded hs h, fun _ _ hwf hs hr counts h hstep =>
    offlineHoldsNothing_of_absent (step_keeps_offlineAbsent hwf hs counts (offlineAbsent_of_holdsNothing h) hstep)
      (step_keeps_recallsSound hwf hs hr hstep)⟩

end Sys2Proof.Proofs
end

section
/-! PROOFS. Reset: what part reset sets and spares (O4), and the invariants right after it (O5). -/

namespace Sys2Proof.Proofs
set_option Elab.async false

open Sys2Proof.Machine Sys2Proof.Safety Sys2Proof.Laws

theorem abandonedMemory_of_not_serving {s : State} (h : ∀ v, s.memPort ≠ .serving v) :
    s.abandonedMemory = s.memory := by
  unfold State.abandonedMemory
  split
  · rename_i r d hport
    exact absurd hport (h _)
  · rename_i q hport
    exact absurd hport (h _)
  · rfl

/-- Whichever words of the burst were performed, they are words of the burst (log 16). -/
theorem readStored_abandoned_window {s : State} {r : Request} {d : Bool} {a : Nat}
    (hport : s.memPort = .serving (.window r d)) (apart : ∀ i < r.burst, a ≠ wordAddr r i) :
    readStored s.abandonedMemory a = readStored s.memory a := by
  unfold State.abandonedMemory
  rw [hport]
  refine readStored_performPlaces_ne r [] _ s.memory fun i hi => apart i ?_
  exact List.mem_range.1 (List.mem_filter.1 hi).1

theorem readStored_abandoned_scrub {s : State} {q : ScrubRequest} {a : Nat}
    (hport : s.memPort = .serving (.scrub q)) (apart : ∀ i < 8, a ≠ scrubAddr q i) :
    readStored s.abandonedMemory a = readStored s.memory a := by
  unfold State.abandonedMemory
  rw [hport]
  refine readStored_scrubPlaces_ne q _ s.memory fun i hi => apart i ?_
  exact List.mem_range.1 (List.mem_filter.1 hi).1

/-- Settles O4: the part's fields are the ones `State.afterPartReset` writes; the array goes through the words
of the abandoned burst alone. -/
theorem partResetClearsPart : Obligations.PartResetClearsPart := by
  intro s
  have units : ∀ p, (State.afterPartReset s.frames s.now s.abandonedMemory
      ⟨s.ports.p0.prst, s.ports.p1.prst, s.ports.p2.prst, s.ports.p3.prst⟩ (s.draws + 1) s.pending).unit p =
        PortUnit.reset (s.unit p).prst := fun p => by
    rw [afterPartReset_unit]
    cases p <;> rfl
  have entries : ∀ f, (State.afterPartReset s.frames s.now s.abandonedMemory
      ⟨s.ports.p0.prst, s.ports.p1.prst, s.ports.p2.prst, s.ports.p3.prst⟩ (s.draws + 1) s.pending).entry f =
        Entry.reset := entry_of_dir_nil rfl
  have records : ∀ i, (Vector.replicate 8 (none : Option RecallRec)).get i = none := fun i => by
    simp [Vector.get_eq_getElem]
  exact ⟨_, rfl, rfl, entries, rfl, rfl, rfl, rfl, rfl, records, rfl, rfl, rfl, rfl, rfl, rfl, rfl, rfl, rfl,
    rfl, rfl, units, rfl, rfl, rfl, memory_wf_abandoned, abandonedMemory_of_not_serving,
    fun _ _ _ => readStored_abandoned_window, fun _ _ => readStored_abandoned_scrub⟩

/-! ### Right after reset -/

@[simp] theorem reset_unit (p : Port) : State.reset.unit p = PortUnit.reset false := by
  cases p <;> rfl

theorem mapOf_reset (prst : Bool) (c : Context) : (PortUnit.reset prst).mapOf c = [] := by
  cases c <;> rfl

theorem reset_resetHolds : ResetHolds State.reset := fun _ =>
  ⟨rfl, rfl, rfl, rfl, rfl, rfl, rfl, rfl, fun p => by rw [reset_unit]; exact ⟨rfl, rfl, rfl⟩⟩

/-- Settles O5: the directory, the queues and the maps are empty, so every invariant speaks of nothing or of a
reset value. -/
theorem resetSatisfiesInvariants : Obligations.ResetSatisfiesInvariants := by
  have recalls : RecallsSound State.reset := recallsSound_of_reset rfl rfl rfl
  have maps : ∀ p, (State.reset.unit p).map0 = [] ∧ (State.reset.unit p).map1 = [] := fun p => by
    rw [reset_unit]; exact ⟨rfl, rfl⟩
  obtain ⟨entries, queue⟩ := dirSound_of_dir_nil (s := State.reset) rfl rfl
  refine ⟨⟨reset_memory_wf, ⟨List.Pairwise.nil, nofun⟩, fun p => ?_⟩, fun p => ?_, nofun,
    fun _ => ⟨rfl, rfl, fun p => ?_⟩, ⟨by decide, ?_⟩, ⟨entries, queue, reset_resetHolds⟩, recalls, ⟨rfl, rfl⟩,
    fun p => ?_, fun p => ?_, uninitCountRight_of_dir_nil rfl rfl,
    offlineHoldsNothing_of_absent (offlineAbsent_of_reset rfl maps) recalls,
    ⟨nofun, fun p => ?_, by decide⟩, ⟨⟨by decide, by decide⟩, by decide, by decide⟩, fun p c m hm => ?_⟩
  · rw [(maps p).1, (maps p).2]
    exact ⟨List.Pairwise.nil, List.Pairwise.nil⟩
  · simp [PortUnit.reset]
  · rw [reset_unit]; rfl
  · show false = true ↔ 1024 = 0
    simp
  · rw [reset_unit]; rfl
  · have idle : State.reset.inService p = false := rfl
    simp [PortUnit.reset, idle]
  · rw [reset_unit]
    exact ⟨Nat.zero_le _, rfl⟩
  · rw [reset_unit, mapOf_reset] at hm
    exact absurd hm List.not_mem_nil

end Sys2Proof.Proofs
end

section
/-! PROOFS. The memory port: what the arbiter's choice leaves waiting (R102, R103), and who has a request in
service, waiting or held (R101, log 20). -/

namespace Sys2Proof.Proofs
set_option Elab.async false

open Sys2Proof.Machine Sys2Proof.Safety Sys2Proof.Laws

/-! ### What leaves the memory port's own state alone -/

/-- The memory port, a refresh due and the ports' requests stay as they are, and the scrub request too unless
the memory port is busy. -/
structure PortKept (s t : State) : Prop where
  memPort : t.memPort = s.memPort
  refreshDue : t.refreshDue = s.refreshDue
  scrubRequest : s.memPort = .idle → t.scrubRequest = s.scrubRequest
  request : ∀ p, (t.unit p).request = (s.unit p).request
  held : ∀ p, (t.unit p).held = (s.unit p).held

theorem PortKept.refl (s : State) : PortKept s s := ⟨rfl, rfl, fun _ => rfl, fun _ => rfl, fun _ => rfl⟩

theorem PortKept.trans {s t u : State} (h : PortKept s t) (k : PortKept t u) : PortKept s u where
  memPort := k.memPort.trans h.memPort
  refreshDue := k.refreshDue.trans h.refreshDue
  scrubRequest := fun idle => (k.scrubRequest (h.memPort.trans idle)).trans (h.scrubRequest idle)
  request := fun p => (k.request p).trans (h.request p)
  held := fun p => (k.held p).trans (h.held p)

theorem portKept_of_directoryChange {s t : State} (h : DirectoryChange s t) : PortKept s t := by
  obtain ⟨state, units⟩ := h
  refine ⟨by rw [state], by rw [state], fun _ => by rw [state], fun p => ?_, fun p => ?_⟩
  all_goals rw [units p]

theorem portKept_setUnit {s : State} {p : Port} {u : PortUnit} (request : u.request = (s.unit p).request)
    (held : u.held = (s.unit p).held) : PortKept s (s.setUnit p u) := by
  refine ⟨rfl, rfl, fun _ => rfl, fun q => ?_, fun q => ?_⟩
  all_goals
    rw [setUnit_unit]
    split
    next same => subst same; assumption
    next => rfl

theorem portKept_clearMap (s : State) (p : Port) (c : Context) (page : Nat) :
    PortKept s (s.clearMap p c page) :=
  portKept_setUnit (by cases c <;> rfl) (by cases c <;> rfl)

theorem portKept_writeMap (s : State) (p : Port) (c : Context) (page : Nat) (m : MapEntry) :
    PortKept s (s.writeMap p c page m) :=
  portKept_setUnit (by cases c <;> rfl) (by cases c <;> rfl)

theorem portKept_repair (s : State) (r : Request) (cause : FaultCause) : PortKept s (s.repair r cause) := by
  unfold State.repair
  split
  · exact PortKept.refl s
  · split
    · split
      · exact portKept_clearMap _ _ _ _
      · exact portKept_writeMap _ _ _ _ _
      · exact PortKept.refl s
    · exact PortKept.refl s

theorem portKept_answerBus (s : State) (p : Port) (error : Bool) (data : List Word) :
    PortKept s (s.answerBus p error data) := portKept_setUnit rfl rfl

/-! ### A request that has won the arbiter -/

theorem serveWindow_fault {s : State} {r : Request} {cause : FaultCause} (h : s.grantFault r = some cause) :
    s.serveWindow r =
      (((s.repair r cause).post r.port (.fault r.addr r.context r.access r.burst cause)).answerBus
        r.port true [], true) := by
  simp only [State.serveWindow, h]

theorem serveWindow_noByte {s : State} {r : Request} (h : s.grantFault r = none)
    (noByte : r.access = .write ∧ r.enables = 0) : s.serveWindow r = (s.answerBus r.port false [], true) := by
  simp only [State.serveWindow, h, if_pos noByte]

theorem serveWindow_admitted {s : State} {r : Request} (h : s.grantFault r = none)
    (bytes : ¬(r.access = .write ∧ r.enables = 0)) :
    s.serveWindow r = ({ s with memPort := .serving (.window r false) }, false) := by
  simp only [State.serveWindow, h, if_neg bytes]

/-- A request that ends within its grant leaves the memory port's state alone (R105, R113). -/
theorem portKept_serveWindow {s : State} {r : Request} (ended : (s.serveWindow r).2 = true) :
    PortKept s (s.serveWindow r).1 ∧ (s.serveWindow r).1.scrubRequest = s.scrubRequest := by
  have scrub : (s.serveWindow r).1.scrubRequest = s.scrubRequest := by
    cases fault : s.grantFault r with
    | some cause =>
      have repaired : (s.repair r cause).scrubRequest = s.scrubRequest := by
        unfold State.repair
        split
        · rfl
        · split
          · split <;> rfl
          · rfl
      rw [serveWindow_fault fault]
      exact repaired
    | none =>
      by_cases noByte : r.access = .write ∧ r.enables = 0
      · rw [serveWindow_noByte fault noByte]; rfl
      · rw [serveWindow_admitted fault noByte]
  refine ⟨?_, scrub⟩
  cases fault : s.grantFault r with
  | some cause =>
    rw [serveWindow_fault fault]
    exact ((portKept_repair s r _).trans (portKept_of_directoryChange (directoryChange_post _ _ _))).trans
      (portKept_answerBus _ _ _ _)
  | none =>
    by_cases noByte : r.access = .write ∧ r.enables = 0
    · rw [serveWindow_noByte fault noByte]
      exact portKept_answerBus _ _ _ _
    · rw [serveWindow_admitted fault noByte] at ended
      exact absurd ended Bool.false_ne_true

/-- A request that does not end within its grant was admitted by the directory, and is in service (R92, R105). -/
theorem serveWindow_served {s : State} {r : Request} (goesOn : ¬(s.serveWindow r).2 = true) :
    s.grantFault r = none ∧ (s.serveWindow r).1 = { s with memPort := .serving (.window r false) } := by
  cases fault : s.grantFault r with
  | some cause =>
    rw [serveWindow_fault fault] at goesOn
    exact absurd rfl goesOn
  | none =>
    by_cases noByte : r.access = .write ∧ r.enables = 0
    · rw [serveWindow_noByte fault noByte] at goesOn
      exact absurd rfl goesOn
    · rw [serveWindow_admitted fault noByte]
      exact ⟨rfl, rfl⟩

/-! ### The requesters that wait -/

/-- The requesters, in ring order from P0. -/
def requesters : List Requester := [.port .P0, .port .P1, .port .P2, .port .P3, .scrub]

/-- The number of requests waiting at the arbiter. -/
def waitingCount (s : State) : Nat := requesters.countP (fun x => (s.waitingOf x).isSome)

theorem mem_ring (x y : Requester) : y ∈ ring x := by
  rcases x with (_ | _ | _ | _) | _ <;> rcases y with (_ | _ | _ | _) | _ <;> decide

theorem choice_eq_none {s : State} : s.choice = none ↔ ∀ x, s.waitingOf x = none := by
  unfold State.choice
  rw [List.findSome?_eq_none_iff]
  refine ⟨fun h x => ?_, fun h x _ => by rw [h x]; rfl⟩
  simpa using h x (mem_ring _ _)

/-- What the arbiter chooses is a request that waits. -/
theorem waitingOf_of_choice {s : State} {x : Requester} {v : Service} (h : s.choice = some (x, v)) :
    s.waitingOf x = some v := by
  obtain ⟨y, _, hy⟩ := List.exists_of_findSome?_eq_some h
  obtain ⟨w, hw, same⟩ := Option.map_eq_some_iff.1 hy
  cases same
  exact hw

theorem noneWaiting_iff {s : State} : NoneWaiting s ↔ ∀ x, s.waitingOf x = none := by
  refine ⟨fun ⟨scrub, ports⟩ x => ?_, fun h => ⟨?_, fun p => ?_⟩⟩
  · cases x with
    | port p => simp [State.waitingOf, ports p]
    | scrub => simp [State.waitingOf, scrub]
  · simpa [State.waitingOf] using h .scrub
  · simpa [State.waitingOf] using h (.port p)

@[simp] theorem takeWaiting_memPort (s : State) (x : Requester) : (s.takeWaiting x).memPort = s.memPort := by
  cases x <;> rfl

@[simp] theorem takeWaiting_refreshDue (s : State) (x : Requester) :
    (s.takeWaiting x).refreshDue = s.refreshDue := by
  cases x <;> rfl

@[simp] theorem takeWaiting_entry (s : State) (x : Requester) (f : Nat) :
    (s.takeWaiting x).entry f = s.entry f := by
  cases x <;> rfl

theorem takeWaiting_unit (s : State) (x : Requester) (p : Port) :
    (s.takeWaiting x).unit p =
      if x = .port p then { s.unit p with request := none } else s.unit p := by
  cases x with
  | scrub => rfl
  | port q =>
    refine (setUnit_unit s q p _).trans ?_
    by_cases same : p = q
    · subst same; simp
    · rw [if_neg same, if_neg (by simpa using Ne.symm same)]

/-- The chosen requester has nothing waiting any more, the others what they had (R102). -/
theorem takeWaiting_waitingOf (s : State) (x y : Requester) :
    (s.takeWaiting x).waitingOf y = if y = x then none else s.waitingOf y := by
  cases y with
  | scrub => cases x <;> rfl
  | port q =>
    simp only [State.waitingOf, takeWaiting_unit]
    by_cases same : x = .port q
    · simp [same]
    · rw [if_neg same, if_neg (Ne.symm same)]

/-- Each choice takes one of the requests that wait. -/
theorem waitingCount_takeWaiting {s : State} {x : Requester} {v : Service} (waits : s.waitingOf x = some v) :
    waitingCount (s.takeWaiting x) + 1 = waitingCount s := by
  have flags : ∀ y, ((s.takeWaiting x).waitingOf y).isSome = if y = x then false else (s.waitingOf y).isSome :=
    fun y => by rw [takeWaiting_waitingOf]; split <;> rfl
  simp only [waitingCount, requesters, List.countP_cons, List.countP_nil, flags]
  rcases x with (_ | _ | _ | _) | _ <;> simp [waits] <;> omega

theorem waitingCount_of_kept {s t : State} (h : PortKept s t) (scrub : t.scrubRequest = s.scrubRequest) :
    waitingCount t = waitingCount s := by
  have same : ∀ x, t.waitingOf x = s.waitingOf x := fun x => by
    cases x <;> simp [State.waitingOf, h.request, scrub]
  simp only [waitingCount, same]

theorem waitingCount_le (s : State) : waitingCount s ≤ 5 := List.countP_le_length

theorem noneWaiting_of_count {s : State} (h : waitingCount s = 0) : NoneWaiting s := by
  refine noneWaiting_iff.2 fun x => ?_
  have none := List.countP_eq_zero.1 h x (by rcases x with (_ | _ | _ | _) | _ <;> decide)
  simpa using none

/-! ### The arbiter's choice -/

theorem waitingOf_scrub {s : State} {x : Requester} {v : ScrubRequest} (h : s.waitingOf x = some (.scrub v)) :
    x = .scrub ∧ s.scrubRequest = some v := by
  cases x with
  | port p => simp [State.waitingOf] at h
  | scrub => exact ⟨rfl, by simpa [State.waitingOf] using h⟩

theorem waitingOf_window {s : State} {x : Requester} {r : Request} {d : Bool}
    (h : s.waitingOf x = some (.window r d)) : ∃ p, x = .port p ∧ (s.unit p).request = some r := by
  cases x with
  | port p =>
    obtain ⟨r', request, same⟩ := Option.map_eq_some_iff.1 h
    cases same
    exact ⟨p, rfl, request⟩
  | scrub => simp [State.waitingOf] at h

/-- The arbiter chooses until nothing waits, a request is in service or a refresh is due: what holds before each
choice, `I`, gives what holds after the last, `G` (R102, R103). -/
theorem arbitrateFuel_induct {I G : State → Prop}
    (idle : ∀ s, I s → NoneWaiting s → G { s with memPort := .idle })
    (scrub : ∀ s v, I s → s.scrubRequest = some v →
      G { s.takeWaiting .scrub with memPort := .serving (.scrub v) })
    (served : ∀ s p r, I s → (s.unit p).request = some r → s.grantFault r = none →
      G { s.takeWaiting (.port p) with memPort := .serving (.window r false) })
    (ended : ∀ s p r, I s → (s.unit p).request = some r →
      ((s.takeWaiting (.port p)).serveWindow r).2 = true → I ((s.takeWaiting (.port p)).serveWindow r).1)
    (refresh : ∀ s, I s → s.refreshDue = true → G s.beginRefresh)
    (n : Nat) (s : State) (count : waitingCount s ≤ n) (hs : I s) : G (State.arbitrateFuel n s) := by
  induction n generalizing s with
  | zero => exact idle s hs (noneWaiting_of_count (Nat.le_zero.1 count))
  | succ n ih =>
    rw [State.arbitrateFuel]
    split
    next none => exact idle s hs (noneWaiting_iff.2 (choice_eq_none.1 none))
    next x v chosen =>
      obtain ⟨rfl, waits⟩ := waitingOf_scrub (waitingOf_of_choice chosen)
      exact scrub s v hs waits
    next x r d chosen =>
      have waits := waitingOf_of_choice chosen
      obtain ⟨p, rfl, request⟩ := waitingOf_window waits
      dsimp only
      split
      next ends =>
        have after := ended s p r hs request ends
        obtain ⟨kept, scrubKept⟩ := portKept_serveWindow ends
        have fewer := waitingCount_takeWaiting waits
        rw [← waitingCount_of_kept kept scrubKept] at fewer
        split
        next due => exact refresh _ after due
        next => exact ih _ (by omega) after
      next goesOn =>
        obtain ⟨admitted, same⟩ := serveWindow_served goesOn
        rw [same]
        refine served s p r hs request (admitted.symm.trans ?_).symm
        simp only [State.grantFault, takeWaiting_entry]

theorem arbitrate_induct {I G : State → Prop} (s : State)
    (idle : ∀ s, I s → NoneWaiting s → G { s with memPort := .idle })
    (scrub : ∀ s v, I s → s.scrubRequest = some v →
      G { s.takeWaiting .scrub with memPort := .serving (.scrub v) })
    (served : ∀ s p r, I s → (s.unit p).request = some r → s.grantFault r = none →
      G { s.takeWaiting (.port p) with memPort := .serving (.window r false) })
    (ended : ∀ s p r, I s → (s.unit p).request = some r →
      ((s.takeWaiting (.port p)).serveWindow r).2 = true → I ((s.takeWaiting (.port p)).serveWindow r).1)
    (refresh : ∀ s, I s → s.refreshDue = true → G s.beginRefresh) (hs : I s) : G s.arbitrate :=
  arbitrateFuel_induct idle scrub served ended refresh 5 s (waitingCount_le s) hs

/-! ### An IDLE memory port without waiting work (R103) -/

/-- An arbiter that chooses while no refresh is due leaves an IDLE port with nothing to do. -/
theorem arbitrate_idleHasNoWork {s : State} (due : s.refreshDue = false) : IdleHasNoWork s.arbitrate := by
  refine arbitrate_induct (I := fun s => s.refreshDue = false) s ?_ ?_ ?_ ?_ ?_ due
  · exact fun s due none _ => ⟨none.1, due, none.2⟩
  · exact fun s v _ _ idle => nomatch idle
  · exact fun s p r _ _ _ idle => nomatch idle
  · intro s p r due _ ends
    rw [(portKept_serveWindow ends).1.refreshDue, takeWaiting_refreshDue]
    exact due
  · intro s off due
    rw [off] at due
    exact absurd due Bool.false_ne_true

theorem afterService_idleHasNoWork (s : State) : IdleHasNoWork s.afterService := by
  unfold State.afterService
  split
  · exact fun idle => nomatch idle
  next due => exact arbitrate_idleHasNoWork (by simpa using due)

/-- A posting makes an IDLE memory port choose at once, so long as no refresh was due. -/
theorem posted_idleHasNoWork {s : State} (due : s.memPort = .idle → s.refreshDue = false) :
    IdleHasNoWork s.posted := by
  unfold State.posted
  split
  next idle => exact arbitrate_idleHasNoWork (due idle)
  next busy => exact fun idle => absurd idle busy

theorem PortKept.keeps_idleHasNoWork {s t : State} (h : PortKept s t) (hs : IdleHasNoWork s) :
    IdleHasNoWork t := by
  intro idle
  have before : s.memPort = .idle := h.memPort.symm.trans idle
  obtain ⟨scrub, due, requests⟩ := hs before
  exact ⟨(h.scrubRequest before).trans scrub, h.refreshDue.trans due, fun p => (h.request p).trans (requests p)⟩

/-! ### One request outstanding for each requester (R101, log 20) -/

/-- No access waits to be posted, and each port's waiting request is its own. -/
def RequestsPlain (s : State) : Prop :=
  (∀ p, (s.unit p).held = none) ∧ ∀ p r, (s.unit p).request = some r → r.port = p

theorem RequestsPlain.takeWaiting {s : State} (h : RequestsPlain s) (x : Requester) :
    RequestsPlain (s.takeWaiting x) := by
  obtain ⟨held, own⟩ := h
  refine ⟨fun p => ?_, fun p r request => ?_⟩
  · rw [takeWaiting_unit]
    split <;> exact held p
  · rw [takeWaiting_unit] at request
    split at request
    · cases request
    · exact own p r request

theorem RequestsPlain.kept {s t : State} (h : RequestsPlain s) (k : PortKept s t) : RequestsPlain t :=
  ⟨fun p => (k.held p).trans (h.1 p), fun p r request => h.2 p r ((k.request p).symm.trans request)⟩

/-- With no window request in service nothing more is asked. -/
theorem RequestsPlain.oneRequestEach {s : State} (h : RequestsPlain s)
    (free : ∀ p, s.inService p = true → (s.unit p).request = none) : OneRequestEach s := by
  obtain ⟨held, own⟩ := h
  refine fun p => ⟨free p, fun waits => absurd (held p) waits, fun r request => ?_⟩
  rcases request with request | request
  · exact own p r request
  · rw [held p] at request
    cases request

theorem arbitrate_oneRequestEach {s : State} (h : RequestsPlain s) : OneRequestEach s.arbitrate := by
  refine arbitrate_induct (I := RequestsPlain) s ?_ ?_ ?_ ?_ ?_ h
  · exact fun s h _ => RequestsPlain.oneRequestEach (s := { s with memPort := .idle }) h nofun
  · exact fun s v h _ => RequestsPlain.oneRequestEach
      (s := { s.takeWaiting .scrub with memPort := .serving (.scrub v) }) (h.takeWaiting .scrub) nofun
  · intro s p r h request _
    refine RequestsPlain.oneRequestEach
      (s := { s.takeWaiting (.port p) with memPort := .serving (.window r false) })
      (h.takeWaiting (.port p)) fun q serving => ?_
    have own : r.port = p := h.2 p r request
    have port : r.port = q := of_decide_eq_true serving
    rw [← port, own]
    exact congrArg PortUnit.request ((takeWaiting_unit s (.port p) p).trans (if_pos rfl))
  · exact fun s p r h _ ends => (h.takeWaiting _).kept (portKept_serveWindow ends).1
  · exact fun s h _ => RequestsPlain.oneRequestEach (s := s.beginRefresh) h nofun

theorem afterService_oneRequestEach {s : State} (h : RequestsPlain s) : OneRequestEach s.afterService := by
  unfold State.afterService
  split
  · exact RequestsPlain.oneRequestEach (s := s.beginRefresh) h nofun
  · exact arbitrate_oneRequestEach h

/-- While no discarded request is in service, no access waits to be posted (log 20). -/
theorem requestsPlain_of_one {s : State} (h : OneRequestEach s)
    (free : ∀ r, s.memPort ≠ .serving (.window r true)) : RequestsPlain s := by
  refine ⟨fun p => ?_, fun p r request => (h p).2.2 r (.inl request)⟩
  by_contra waits
  obtain ⟨r, port, _⟩ := (h p).2.1 waits
  exact free r port

theorem PortKept.keeps_oneRequestEach {s t : State} (h : PortKept s t) (hs : OneRequestEach s) :
    OneRequestEach t := by
  intro p
  obtain ⟨served, waits, own⟩ := hs p
  have service : t.inService p = s.inService p := by simp only [State.inService, h.memPort]
  rw [service, h.request, h.held, h.memPort]
  exact ⟨served, waits, own⟩

end Sys2Proof.Proofs
end

section
/-! PROOFS. What a command may do to the memory port: every command but the accesses, the bursts, the refresh and
the two resets is a run of directory changes, edits of port units that leave their requests alone, and scrub
postings. -/

namespace Sys2Proof.Proofs
set_option Elab.async false

open Sys2Proof.Machine Sys2Proof.Safety Sys2Proof.Laws

/-- A state changes in nothing that the memory port, its requests or a port unit is part of. -/
def AsideEdit (s t : State) : Prop :=
  t = { s with rstAsserted := t.rstAsserted, now := t.now, frames := t.frames, uninitCount := t.uninitCount,
               poolFree := t.poolFree, arrival := t.arrival, token := t.token,
               leaseDeadline := t.leaseDeadline, recallTimeout := t.recallTimeout,
               leaseParam := t.leaseParam, scrubQueue := t.scrubQueue, burst := t.burst,
               refreshAt := t.refreshAt, memory := t.memory, draws := t.draws, pending := t.pending }

/-- One deed of a command that may edit the units of certain ports, and may post a scrub burst or not. -/
inductive Deed (mine : Port → Prop) (posts : Prop) : State → State → Prop where
  | directory (s t : State) (h : DirectoryChange s t) : Deed mine posts s t
  | unit (s : State) (p : Port) (u : PortUnit) (may : mine p) (request : u.request = (s.unit p).request)
      (held : u.held = (s.unit p).held) : Deed mine posts s (s.setUnit p u)
  | aside (s t : State) (h : AsideEdit s t) : Deed mine posts s t
  | postScrub (s : State) (f b : Nat) (may : posts) : Deed mine posts s (s.postScrub f b)

/-- A run of deeds. -/
abbrev Deeds (mine : Port → Prop) (posts : Prop) : State → State → Prop :=
  Relation.ReflTransGen (Deed mine posts)

/-- What each deed keeps, a run of deeds keeps. -/
theorem Deeds.keeps {mine : Port → Prop} {posts : Prop} {I : State → Prop} (h : ∀ s t, Deed mine posts s t → I s → I t)
    {s t : State} (run : Deeds mine posts s t) (hs : I s) : I t := by
  induction run with
  | refl => exact hs
  | tail _ deed ih => exact h _ _ deed ih

section Runs

variable {mine : Port → Prop} {posts : Prop}

theorem deeds_directory {s t : State} (h : DirectoryChange s t) : Deeds mine posts s t :=
  Relation.ReflTransGen.single (.directory s t h)

theorem deeds_aside {s t : State} (h : AsideEdit s t) : Deeds mine posts s t :=
  Relation.ReflTransGen.single (.aside s t h)

theorem deeds_setUnit {s : State} {p : Port} {u : PortUnit} (may : mine p)
    (request : u.request = (s.unit p).request := by rfl) (held : u.held = (s.unit p).held := by rfl) :
    Deeds mine posts s (s.setUnit p u) :=
  Relation.ReflTransGen.single (.unit s p u may request held)

/-! ### The operations that commands share -/

theorem deeds_reply {s : State} {p : Port} (may : mine p) (c : ResultCode) (r1 r2 r3 : Word) :
    Deeds mine posts s (s.reply p c r1 r2 r3) := deeds_setUnit may

theorem deeds_refuse {s : State} {p : Port} (may : mine p) (c : ResultCode) :
    Deeds mine posts s (s.refuse p c) := deeds_setUnit may

theorem deeds_clearMap {s : State} {p : Port} (may : mine p) (c : Context) (page : Nat) :
    Deeds mine posts s (s.clearMap p c page) :=
  deeds_setUnit may (by cases c <;> rfl) (by cases c <;> rfl)

theorem deeds_writeMap {s : State} {p : Port} (may : mine p) (c : Context) (page : Nat) (m : MapEntry) :
    Deeds mine posts s (s.writeMap p c page m) :=
  deeds_setUnit may (by cases c <;> rfl) (by cases c <;> rfl)

theorem deeds_appendScrub (may : posts) (s : State) (f : Nat) (origin : Origin) (notify : Option Port) :
    Deeds mine posts s (s.appendScrub f origin notify) := by
  let s1 := s.putEntry f { s.entry f with state := .scrubbing, pinned := false }
  let s2 : State := { s1 with scrubQueue := s1.scrubQueue ++ [⟨f, origin, notify⟩] }
  have appended : Deeds mine posts s s2 :=
    (deeds_directory (directoryChange_putEntry s f _)).trans (deeds_aside (s := s1) (t := s2) rfl)
  show Deeds mine posts s (if s.scrubQueue.isEmpty then s2.postScrub f 0 else s2)
  split
  · exact appended.tail (.postScrub s2 f 0 may)
  · exact appended

theorem deeds_foldl {op : State → Nat → State} (h : ∀ s f, DirectoryChange s (op s f)) (l : List Nat)
    (s : State) : Deeds mine posts s (l.foldl op s) := by
  induction l generalizing s with
  | nil => exact .refl
  | cons f rest ih => exact (deeds_directory (h s f)).trans (ih _)

theorem deeds_withdrawAll (s : State) (p : Port) : Deeds mine posts s (s.withdrawAll p) :=
  (deeds_aside (t := s.nextDraw) rfl).trans (deeds_foldl (fun t f => directoryChange_withdraw t f p) _ _)

theorem directoryChange_giveUp (s : State) (f : Nat) (p : Port) : DirectoryChange s (s.giveUp f p) := by
  unfold State.giveUp
  split
  · exact directoryChange_quarantine s f p
  · exact (directoryChange_leave s f p).trans (directoryChange_afterLeaving _ _ _)

theorem deeds_freeTokenOf (s : State) (p : Port) : Deeds mine posts s (s.freeTokenOf p) := by
  unfold State.freeTokenOf
  split
  · exact deeds_aside rfl
  · exact .refl

theorem deeds_dropNotify (s : State) (p : Port) : Deeds mine posts s (s.dropNotify p) := deeds_aside rfl

theorem deeds_detachPort {s : State} {p : Port} (may : mine p) : Deeds mine posts s (s.detachPort p) := by
  let t := ((s.withdrawAll p).freeTokenOf p).dropNotify p
  have left : Deeds mine posts s t :=
    ((deeds_withdrawAll s p).trans (deeds_freeTokenOf _ p)).trans (deeds_dropNotify _ p)
  have cleared : Deeds mine posts t (t.clearMaps p) := deeds_setUnit may
  exact (left.trans cleared).trans (deeds_setUnit may)

/-! ### The owners of the commands -/

/-- A command is deeds of its port if its owner is. -/
theorem deeds_issue {α : Type} {s : State} {p : Port} {code : Word} {off : Bool} {args : Option α}
    {owner : α → State → State} (may : mine p) (h : ∀ a t, Deeds mine posts t (owner a t)) :
    Deeds mine posts s (s.issue p code off args owner) := by
  have taken : Deeds mine posts s (s.takeCode p code) := deeds_setUnit may
  unfold State.issue
  split
  · dsimp only
    split
    · exact taken.trans (deeds_refuse may _)
    · split
      · exact taken.trans (deeds_refuse may _)
      · exact taken.trans (h _ _)
  · exact .refl

theorem deeds_issueAuthority {α : Type} {s : State} {p : Port} {code : Word} {args : Option α}
    {owner : α → State → State} (may : mine p) (h : ∀ a t, Deeds mine posts t (owner a t)) :
    Deeds mine posts s (s.issueAuthority p code args owner) := by
  have taken : Deeds mine posts s (s.takeCode p code) := deeds_setUnit may
  have renewal : ∀ t : State, Deeds mine posts t t.renewLease := fun _ => deeds_aside rfl
  unfold State.issueAuthority
  split
  · dsimp only
    split
    · exact taken.trans (deeds_refuse may _)
    · split
      · exact taken.trans (deeds_refuse may _)
      · split
        · exact (taken.trans (deeds_refuse may _)).trans (renewal _)
        · exact (taken.trans (h _ _)).trans (renewal _)
  · exact .refl

variable {p : Port} (may : mine p)
include may

theorem deeds_takeClaim (f : Nat) (m : Mode) (tag : BitVec 8) (o : ClaimOutcome) (s : State) :
    Deeds mine posts s (s.takeClaim p f m tag o) := by
  have taken : Deeds mine posts s (s.putEntry f (takenEntry (s.entry f) p m o)) :=
    deeds_directory (directoryChange_putEntry s f _)
  unfold State.takeClaim State.claimReply
  dsimp only
  split
  · exact (taken.trans (deeds_directory (directoryChange_advance _ _ _))).trans (deeds_reply may _ _ _ _)
  · exact taken.trans (deeds_reply may _ _ _ _)

theorem deeds_takeRecord (s : State) : Deeds mine posts s (s.takeRecord p) := by
  let t := s.setUnit p { s.unit p with waiting := (s.unit p).waiting + 1 }
  have counted : Deeds mine posts s t := deeds_setUnit may
  exact counted.trans (deeds_aside (s := t) rfl)

theorem deeds_queueClaim (scrubs : posts) (f : Nat) (m : Mode) (tag : BitVec 8) (s : State) :
    Deeds mine posts s (s.queueClaim p f m tag) := by
  let s2 := (s.takeRecord p).putEntry f
    { s.entry f with queue := (s.entry f).queue ++ [⟨p, m, tag, s.arrival⟩] }
  let promoted := (s.entry f).state == .uninitialized && scrubRoom s
  let s3 := if promoted then s2.appendScrub f .promotion none else s2
  let s4 := if (s.entry f).queue.isEmpty then s3.advance false f else s3
  have queued : Deeds mine posts s s2 :=
    (deeds_takeRecord may s).trans (deeds_directory (directoryChange_putEntry _ f _))
  have promotion : Deeds mine posts s2 s3 := by
    by_cases hp : promoted = true
    · simp only [s3, if_pos hp]
      exact deeds_appendScrub scrubs _ _ _ _
    · simp only [s3, if_neg hp]
      exact .refl
  have advanced : Deeds mine posts s3 s4 := by
    by_cases hq : (s.entry f).queue.isEmpty = true
    · simp only [s4, if_pos hq]
      exact deeds_directory (directoryChange_advance _ _ _)
    · simp only [s4, if_neg hq]
      exact .refl
  exact ((queued.trans promotion).trans advanced).trans (deeds_reply (s := s4) may _ _ _ _)

theorem deeds_ownClaim (scrubs : posts) (a : Nat × Mode × BitVec 8) (s : State) : Deeds mine posts s (ownClaim p a s) := by
  obtain ⟨f, m, tag⟩ := a
  simp only [ownClaim]
  split
  · exact deeds_refuse may _
  · split
    · exact deeds_refuse may _
    · split
      · exact deeds_takeClaim may _ _ _ _ _
      · exact deeds_refuse may _
      · split
        · exact deeds_refuse may _
        · split
          · exact deeds_refuse may _
          · exact deeds_queueClaim may scrubs _ _ _ _

theorem deeds_ownCancel (f : Nat) (s : State) : Deeds mine posts s (ownCancel p f s) := by
  simp only [ownCancel]
  split
  · exact deeds_refuse may _
  · exact (deeds_directory (directoryChange_withdraw s f p)).trans (deeds_reply may _ _ _ _)

theorem deeds_ownRelease (scrubs : posts) (a : Nat × Bool) (s : State) : Deeds mine posts s (ownRelease p a s) := by
  obtain ⟨f, clear⟩ := a
  have left : Deeds mine posts s (s.leave f p).1 := deeds_directory (directoryChange_leave s f p)
  simp only [ownRelease]
  split
  · exact deeds_refuse may _
  · split
    · exact deeds_refuse may _
    · split
      · exact ((left.trans (deeds_directory (directoryChange_dropRecall _ f))).trans
          (deeds_appendScrub scrubs _ _ _ _)).trans (deeds_reply may _ _ _ _)
      · exact (left.trans (deeds_directory (directoryChange_afterLeaving _ _ _))).trans
          (deeds_reply may _ _ _ _)

theorem deeds_ownSelectContext (c : Context) (s : State) : Deeds mine posts s (ownSelectContext p c s) := by
  have selected : Deeds mine posts s (s.setUnit p { s.unit p with context := c }) := deeds_setUnit may
  exact selected.trans (deeds_reply may _ _ _ _)

theorem deeds_setMapFor {q : Port} (its : mine q) (c : Context) (page f : Nat) (write : Bool) (s : State) :
    Deeds mine posts s (s.setMapFor p q c page f write) := by
  unfold State.setMapFor
  split
  · exact deeds_refuse may _
  · exact (deeds_writeMap its _ _ _).trans (deeds_reply may _ _ _ _)

theorem deeds_clearMapFor {q : Port} (its : mine q) (c : Context) (page : Nat) (s : State) :
    Deeds mine posts s (s.clearMapFor p q c page) :=
  (deeds_clearMap its _ _).trans (deeds_reply may _ _ _ _)

theorem deeds_ownMapClearAll (c : Context) (s : State) : Deeds mine posts s (ownMapClearAll p c s) := by
  have cleared : Deeds mine posts s (s.setUnit p ((s.unit p).setMap c [])) :=
    deeds_setUnit may (by cases c <;> rfl) (by cases c <;> rfl)
  exact cleared.trans (deeds_reply may _ _ _ _)

theorem deeds_ownAcquireAuthority (a : Unit) (s : State) : Deeds mine posts s (ownAcquireAuthority p a s) := by
  unfold ownAcquireAuthority
  split
  · have taken : Deeds mine posts s (State.renewLease { s with token := some p }) := deeds_aside rfl
    exact taken.trans (deeds_reply may _ _ _ _)
  · split
    · have renewal : Deeds mine posts s s.renewLease := deeds_aside rfl
      exact renewal.trans (deeds_reply may _ _ _ _)
    · exact deeds_refuse may _

theorem deeds_ownReleaseAuthority (s : State) :
    Deeds mine posts s (if s.token = some p then ({ s with token := none } : State).reply p .ok 0 0 0
      else s.refuse p .denied) := by
  split
  · exact (deeds_aside (t := { s with token := none }) rfl).trans (deeds_reply may _ _ _ _)
  · exact deeds_refuse may _

theorem deeds_ownAssign (a : Nat × Port × Mode) (s : State) : Deeds mine posts s (ownAssign p a s) := by
  obtain ⟨f, q, m⟩ := a
  simp only [ownAssign]
  split
  · exact deeds_refuse may _
  · split
    · exact deeds_refuse may _
    · exact (deeds_directory (((directoryChange_putEntry s f _).trans (directoryChange_post _ _ _)).trans
        (directoryChange_advance _ _ _))).trans (deeds_reply may _ _ _ _)

theorem deeds_ownForceRelease (a : Nat × Port) (s : State) : Deeds mine posts s (ownForceRelease p a s) := by
  obtain ⟨f, q⟩ := a
  simp only [ownForceRelease]
  split
  · exact deeds_refuse may _
  · exact (deeds_directory (((directoryChange_post s q _).trans (directoryChange_leave _ f q)).trans
      (directoryChange_afterLeaving _ _ _))).trans (deeds_reply may _ _ _ _)

theorem deeds_ownPin (f : Nat) (s : State) : Deeds mine posts s (ownPin p f s) := by
  simp only [ownPin]
  split
  · exact deeds_refuse may _
  · split
    · exact deeds_refuse may _
    · exact (deeds_directory (directoryChange_putEntry s f _)).trans (deeds_reply may _ _ _ _)

theorem deeds_ownUnpin (f : Nat) (s : State) : Deeds mine posts s (ownUnpin p f s) :=
  (deeds_directory (directoryChange_putEntry s f _)).trans (deeds_reply may _ _ _ _)

theorem deeds_ownScrub (scrubs : posts) (f : Nat) (s : State) : Deeds mine posts s (ownScrub p f s) := by
  simp only [ownScrub]
  split
  · exact deeds_refuse may _
  · split
    · exact deeds_refuse may _
    · exact ((deeds_directory ((directoryChange_putEntry s f _).trans (directoryChange_postSet _ _ _))).trans
        (deeds_appendScrub scrubs _ _ _ _)).trans (deeds_reply may _ _ _ _)

theorem deeds_ownUnquarantine (f : Nat) (s : State) : Deeds mine posts s (ownUnquarantine p f s) := by
  simp only [ownUnquarantine]
  split
  · exact deeds_refuse may _
  · exact (deeds_directory ((directoryChange_putEntry s f _).trans (directoryChange_advance _ _ _))).trans
      (deeds_reply may _ _ _ _)

theorem deeds_ownSetParameter (a : Nat × Nat) (s : State) : Deeds mine posts s (ownSetParameter p a s) := by
  obtain ⟨id, value⟩ := a
  simp only [ownSetParameter]
  split
  · exact deeds_refuse may _
  · split
    · exact (deeds_aside (t := { s with recallTimeout := value }) rfl).trans (deeds_reply may _ _ _ _)
    · exact (deeds_aside (t := { s with leaseParam := value }) rfl).trans (deeds_reply may _ _ _ _)

theorem deeds_ownAttach (a : Unit) (s : State) : Deeds mine posts s (ownAttach p a s) := by
  have online : Deeds mine posts s (s.setUnit p { s.unit p with online := true }) := deeds_setUnit may
  unfold ownAttach
  split
  · exact deeds_refuse may _
  · exact online.trans (deeds_reply may _ _ _ _)

theorem deeds_ownDetach (a : Unit) (s : State) : Deeds mine posts s (ownDetach p a s) := by
  simp only [ownDetach]
  split
  · exact deeds_reply may _ _ _ _
  · exact (deeds_detachPort may).trans (deeds_reply may _ _ _ _)

/-- A write of the control region is an edit of the port's unit. -/
theorem deeds_writeControl {effect : PortUnit → PortUnit} (s : State)
    (request : (effect (s.unit p)).request = (s.unit p).request)
    (held : (effect (s.unit p)).held = (s.unit p).held) : Deeds mine posts s (s.writeControl p effect) := by
  unfold State.writeControl
  split
  · exact deeds_setUnit may request held
  · exact .refl

omit may

/-- The rows in which the memory port works: the accesses, the ends of bursts, the refresh, and the two resets
(R87, R103, R104, R121, R175). -/
def WorksMemory (i : Instr) : Prop :=
  match i with
  | .windowAccess _ _ _ _ _ _ => True
  | .windowRequestComplete _ => True
  | .uncorrectableError _ => True
  | .scrubBurstComplete => True
  | .refreshTimerExpiry => True
  | .refreshComplete => True
  | .partReset => True
  | .portReset _ => True
  | _ => False

/-- The rows that can append to the scrub queue, and so post a burst (R124, R133). -/
def AppendsScrub (i : Instr) : Prop :=
  match i with
  | .rstnRelease _ => True
  | .claim _ => True
  | .release _ => True
  | .scrub _ => True
  | _ => False

/-- Every other command is a run of deeds: of the units of its port, or for the two that name another port's map
(R159) of any port. -/
theorem exec_deeds {i : Instr} {s t : State} (apart : ¬WorksMemory i) (may : ∀ p, portOf i = some p → mine p)
    (maps : (∃ p, i = .mapSetFor p ∨ i = .mapClearFor p) → ∀ q, mine q) (scrubs : AppendsScrub i → posts)
    (h : exec i s = .next t) :
    Deeds mine posts s t := by
  cases i with
  | windowAccess => exact absurd trivial apart
  | windowRequestComplete => exact absurd trivial apart
  | uncorrectableError => exact absurd trivial apart
  | scrubBurstComplete => exact absurd trivial apart
  | refreshTimerExpiry => exact absurd trivial apart
  | refreshComplete => exact absurd trivial apart
  | partReset => exact absurd trivial apart
  | portReset => exact absurd trivial apart
  | rstnRelease strap =>
    simp only [exec, execRstnRelease] at h
    split at h
    · cases h
      exact (deeds_aside (t := State.released s strap) rfl).trans (deeds_appendScrub (scrubs trivial) _ _ _ _)
    · cases h
      exact .refl
  | prstnRelease p =>
    cases h
    exact deeds_setUnit (may p rfl)
  | attach p => cases h; exact deeds_issue (may p rfl) (deeds_ownAttach (may p rfl))
  | detach p => cases h; exact deeds_issue (may p rfl) (deeds_ownDetach (may p rfl))
  | probeFrame p => cases h; exact deeds_issue (may p rfl) fun _ _ => deeds_reply (may p rfl) _ _ _ _
  | claim p => cases h; exact deeds_issue (may p rfl) (deeds_ownClaim (may p rfl) (scrubs trivial))
  | cancel p => cases h; exact deeds_issue (may p rfl) (deeds_ownCancel (may p rfl))
  | release p => cases h; exact deeds_issue (may p rfl) (deeds_ownRelease (may p rfl) (scrubs trivial))
  | selectContext p => cases h; exact deeds_issue (may p rfl) (deeds_ownSelectContext (may p rfl))
  | mapSet p =>
    cases h
    exact deeds_issue (may p rfl) fun _ _ => deeds_setMapFor (may p rfl) (may p rfl) _ _ _ _ _
  | mapClear p =>
    cases h
    exact deeds_issue (may p rfl) fun _ _ => deeds_clearMapFor (may p rfl) (may p rfl) _ _ _
  | mapClearAll p => cases h; exact deeds_issue (may p rfl) (deeds_ownMapClearAll (may p rfl))
  | probePage p => cases h; exact deeds_issue (may p rfl) fun _ _ => deeds_reply (may p rfl) _ _ _ _
  | acquireAuthority p => cases h; exact deeds_issue (may p rfl) (deeds_ownAcquireAuthority (may p rfl))
  | renewAuthority p =>
    cases h
    exact deeds_issueAuthority (may p rfl) fun _ _ => deeds_reply (may p rfl) _ _ _ _
  | releaseAuthority p => cases h; exact deeds_issue (may p rfl) fun _ => deeds_ownReleaseAuthority (may p rfl)
  | assign p => cases h; exact deeds_issueAuthority (may p rfl) (deeds_ownAssign (may p rfl))
  | forceRelease p => cases h; exact deeds_issueAuthority (may p rfl) (deeds_ownForceRelease (may p rfl))
  | pin p => cases h; exact deeds_issueAuthority (may p rfl) (deeds_ownPin (may p rfl))
  | unpin p => cases h; exact deeds_issueAuthority (may p rfl) (deeds_ownUnpin (may p rfl))
  | scrub p => cases h; exact deeds_issueAuthority (may p rfl) (deeds_ownScrub (may p rfl) (scrubs trivial))
  | unquarantine p => cases h; exact deeds_issueAuthority (may p rfl) (deeds_ownUnquarantine (may p rfl))
  | mapSetFor p =>
    cases h
    refine deeds_issueAuthority (may p rfl) fun a t => ?_
    simp only [ownMapSetFor]
    split
    · exact deeds_refuse (may p rfl) _
    · exact deeds_setMapFor (may p rfl) (maps ⟨p, .inl rfl⟩ _) _ _ _ _ _
  | mapClearFor p =>
    cases h
    refine deeds_issueAuthority (may p rfl) fun a t => ?_
    simp only [ownMapClearFor]
    split
    · exact deeds_refuse (may p rfl) _
    · exact deeds_clearMapFor (may p rfl) (maps ⟨p, .inr rfl⟩ _) _ _ _
  | setParameter p => cases h; exact deeds_issueAuthority (may p rfl) (deeds_ownSetParameter (may p rfl))
  | badCommand p code =>
    simp only [exec, execBadCommand] at h
    split at h
    · cases h
      have taken : Deeds mine posts s (s.takeCode p code) := deeds_setUnit (may p rfl)
      exact taken.trans (deeds_refuse (may p rfl) _)
    · cases h
      exact .refl
  | portStatusWrite p value =>
    cases h
    exact deeds_writeControl (may p rfl) s (by cases value.getLsbD 3 <;> rfl) (by cases value.getLsbD 3 <;> rfl)
  | intEnableWrite p value => cases h; exact deeds_writeControl (may p rfl) s rfl rfl
  | eventPop p value => cases h; exact deeds_writeControl (may p rfl) s rfl rfl
  | registerWrite p index value =>
    simp only [exec, execRegisterWrite] at h
    split at h
    · cases h
      exact deeds_writeControl (may p rfl) s rfl rfl
    · cases h
      exact .refl
  | controlAccessError p access addr burst =>
    simp only [exec, execControlAccessError] at h
    split at h
    · cases h
      exact deeds_setUnit (may p rfl)
    · cases h
      exact .refl
  | recallDeadline f =>
    simp only [exec, execRecallDeadline] at h
    split at h
    · cases h
      exact .refl
    · split at h
      · cases h
        exact deeds_directory (directoryChange_expire s _)
      · cases h
        exact .refl
  | authorityLeaseExpiry =>
    simp only [exec, execAuthorityLeaseExpiry] at h
    split at h
    · cases h
      exact .refl
    · split at h
      · cases h
        exact (deeds_aside (t := { s with token := none }) rfl).trans
          (deeds_directory (directoryChange_post _ _ _))
      · cases h
        exact .refl

end Runs

end Sys2Proof.Proofs
end

section
/-! PROOFS. The invariants of the memory port (O8), the ports that a port's command leaves alone (O17), and what
an access in service may rely on (O18). -/

namespace Sys2Proof.Proofs
set_option Elab.async false

open Sys2Proof.Machine Sys2Proof.Safety Sys2Proof.Laws

/-! ### Deeds keep the invariants of the memory port -/

theorem portKept_of_aside {s t : State} (h : AsideEdit s t) : PortKept s t := by
  rw [h]
  exact ⟨rfl, rfl, fun _ => rfl, fun _ => rfl, fun _ => rfl⟩

theorem portKept_postScrub {s : State} (f b : Nat) (busy : s.memPort ≠ .idle) :
    PortKept s (s.postScrub f b) := by
  have waits : s.postScrub f b = { s with burst := b, scrubRequest := some ⟨f, b⟩ } := if_neg busy
  rw [waits]
  exact ⟨rfl, rfl, fun idle => absurd idle busy, fun _ => rfl, fun _ => rfl⟩

theorem deed_keeps_idleHasNoWork {mine : Port → Prop} {posts : Prop} {s t : State} (h : Deed mine posts s t)
    (hs : IdleHasNoWork s) : IdleHasNoWork t := by
  cases h with
  | directory _ h => exact (portKept_of_directoryChange h).keeps_idleHasNoWork hs
  | unit p u _ request held => exact (portKept_setUnit request held).keeps_idleHasNoWork hs
  | aside _ h => exact (portKept_of_aside h).keeps_idleHasNoWork hs
  | postScrub f b _ => exact posted_idleHasNoWork fun idle => (hs idle).2.1

theorem posted_oneRequestEach {s : State} (h : OneRequestEach s) : OneRequestEach s.posted := by
  unfold State.posted
  split
  next idle => exact arbitrate_oneRequestEach (requestsPlain_of_one h fun r busy => nomatch idle.symm.trans busy)
  next => exact h

theorem deed_keeps_oneRequestEach {mine : Port → Prop} {posts : Prop} {s t : State} (h : Deed mine posts s t)
    (hs : OneRequestEach s) : OneRequestEach t := by
  cases h with
  | directory _ h => exact (portKept_of_directoryChange h).keeps_oneRequestEach hs
  | unit p u _ request held => exact (portKept_setUnit request held).keeps_oneRequestEach hs
  | aside _ h => exact (portKept_of_aside h).keeps_oneRequestEach hs
  | postScrub f b _ =>
    exact posted_oneRequestEach (s := { s with burst := b, scrubRequest := some ⟨f, b⟩ }) hs

/-! ### The scrub engine works while the memory port is busy -/

theorem portKept_appendScrub {s : State} (f : Nat) (origin : Origin) (notify : Option Port)
    (busy : s.memPort ≠ .idle) : PortKept s (s.appendScrub f origin notify) := by
  let s1 := s.putEntry f { s.entry f with state := .scrubbing, pinned := false }
  let s2 : State := { s1 with scrubQueue := s1.scrubQueue ++ [⟨f, origin, notify⟩] }
  have appended : PortKept s s2 :=
    (portKept_of_directoryChange (directoryChange_putEntry s f _)).trans (portKept_of_aside (s := s1) rfl)
  show PortKept s (if s.scrubQueue.isEmpty then s2.postScrub f 0 else s2)
  split
  · exact appended.trans (portKept_postScrub f 0 busy)
  · exact appended

theorem portKept_completeScrub {s : State} (busy : s.memPort ≠ .idle) : PortKept s s.completeScrub := by
  unfold State.completeScrub
  split
  · exact PortKept.refl s
  next d rest _ =>
    let s1 : State := { s with scrubQueue := rest }
    let s2 := s1.putEntry d.frame { s1.entry d.frame with state := .free }
    let s3 := match d.notify with
      | some p => s2.post p (.scrubDone d.frame)
      | none => s2
    have told : DirectoryChange s2 s3 := by
      cases hn : d.notify with
      | none =>
        simp only [s3, hn]
        exact DirectoryChange.refl s2
      | some p =>
        simp only [s3, hn]
        exact directoryChange_post _ _ _
    have freed : PortKept s (s3.advance false d.frame) :=
      (portKept_of_aside (s := s) (t := s1) rfl).trans (portKept_of_directoryChange
        (((directoryChange_putEntry s1 d.frame _).trans told).trans (directoryChange_advance s3 false d.frame)))
    have stillBusy : (s3.advance false d.frame).memPort ≠ .idle := fun idle => busy (freed.memPort.symm.trans idle)
    show PortKept s (match (s3.advance false d.frame).scrubQueue with
      | [] => (s3.advance false d.frame).sweep
      | n :: _ => (s3.advance false d.frame).postScrub n.frame 0)
    split
    · unfold State.sweep
      split
      · split
        · exact freed.trans (portKept_appendScrub _ _ _ stillBusy)
        · exact freed
      · exact freed
    · exact freed.trans (portKept_postScrub _ _ stillBusy)

/-! ### The rows in which the memory port works -/

/-- The state in which a burst that ended leaves the choice to the memory port (R114 to R119). -/
theorem endUncorrectable_eq (s : State) (r : Request) (discard : Bool) (b : BurstResult) (place : Nat) :
    ∃ t, PortKept s t ∧ s.endUncorrectable r discard b place =
      (if discard then t.postHeld r.port else t.answerBus r.port true b.delivered).afterService := by
  let s0 : State := { s with memory := b.memory }
  let s1 := if discard then s0
    else s0.post r.port (.fault (r.addr + 4 * place) r.context r.access r.burst .uncorrectable)
  let s2 := if inUse (s1.entry r.frame).state then
      s1.poison r.frame (if discard then none else some r.port) else s1
  have faulted : PortKept s0 s1 := by
    by_cases hd : discard = true
    · simp only [s1, hd, if_true]
      exact PortKept.refl s0
    · simp only [s1, hd]
      exact portKept_of_directoryChange (directoryChange_post _ _ _)
  have poisoned : PortKept s1 s2 := by
    by_cases hu : inUse (s1.entry r.frame).state = true
    · simp only [s2, if_pos hu]
      exact portKept_of_directoryChange (directoryChange_poison _ _ _)
    · simp only [s2, if_neg hu]
      exact PortKept.refl s1
  exact ⟨s2, ((portKept_of_aside (s := s) (t := s0) rfl).trans faulted).trans poisoned, rfl⟩

theorem endPerformed_eq (s : State) (r : Request) (discard : Bool) (b : BurstResult) :
    ∃ t, PortKept s t ∧ s.endPerformed r discard b =
      (if discard then t.postHeld r.port else t.answerBus r.port false b.delivered).afterService :=
  ⟨{ s with memory := b.memory }, portKept_of_aside rfl, rfl⟩

/-- When the window request in service ends, its port's held access is posted and no other one is held (log 20). -/
theorem plain_of_ended {s t : State} {r : Request} {discard : Bool} (h : OneRequestEach s)
    (port : s.memPort = .serving (.window r discard)) (kept : PortKept s t) (error : Bool) (data : List Word) :
    RequestsPlain (if discard then t.postHeld r.port else t.answerBus r.port error data) := by
  have before := kept.keeps_oneRequestEach h
  have portAfter := kept.memPort.trans port
  cases discard with
  | false =>
    have plain : RequestsPlain t := requestsPlain_of_one before fun r' other => by
      rw [portAfter] at other
      cases other
    exact plain.kept (portKept_answerBus _ _ _ _)
  | true =>
    have others : ∀ p, p ≠ r.port → (t.unit p).held = none := fun p apart => by
      by_contra waits
      obtain ⟨r', other, its⟩ := (before p).2.1 waits
      rw [portAfter] at other
      cases other
      exact apart its.symm
    rw [if_pos rfl, postHeld_eq]
    refine ⟨fun p => ?_, fun p r' request => ?_⟩
    · rw [setUnit_unit]
      split
      · rfl
      next apart => exact others p apart
    · rw [setUnit_unit] at request
      split at request
      next same =>
        subst same
        cases held : (t.unit r.port).held with
        | none =>
          rw [held] at request
          exact (before r.port).2.2 r' (.inl request)
        | some waiting =>
          rw [held] at request
          cases request
          exact (before r.port).2.2 _ (.inr held)
      next => exact (before p).2.2 r' (.inl request)

/-- A window request ends, in error or not: the memory port makes its next choice. -/
theorem ended_keeps {s t : State} {r : Request} {discard : Bool} {b : BurstResult} {place : Nat}
    (port : s.memPort = .serving (.window r discard))
    (h : t = s.endUncorrectable r discard b place ∨ t = s.endPerformed r discard b) :
    IdleHasNoWork t ∧ (OneRequestEach s → OneRequestEach t) := by
  rcases h with rfl | rfl
  · obtain ⟨t, kept, eq⟩ := endUncorrectable_eq s r discard b place
    rw [eq]
    exact ⟨afterService_idleHasNoWork _, fun h => afterService_oneRequestEach (plain_of_ended h port kept _ _)⟩
  · obtain ⟨t, kept, eq⟩ := endPerformed_eq s r discard b
    rw [eq]
    exact ⟨afterService_idleHasNoWork _, fun h => afterService_oneRequestEach (plain_of_ended h port kept _ _)⟩

/-- The memory port's invariants hold after a step if they did before it. -/
abbrev MemPortKept (s t : State) : Prop :=
  (IdleHasNoWork s → IdleHasNoWork t) ∧ (OneRequestEach s → OneRequestEach t)

theorem PortKept.memPortKept {s t : State} (h : PortKept s t) : MemPortKept s t :=
  ⟨h.keeps_idleHasNoWork, h.keeps_oneRequestEach⟩

/-- A port whose bus is served has no transaction outstanding (R87). -/
theorem outstanding_of_served {s : State} {p : Port} (served : s.busServed p = true) :
    s.outstanding p = false := by
  cases out : s.outstanding p with
  | false => rfl
  | true => simp [State.busServed, out] at served

/-- A served port's own request in service is one from before its reset (R101, log 20). -/
theorem discarded_of_served {s : State} {p : Port} (served : s.busServed p = true)
    (service : s.inService p = true) : ∃ r, s.memPort = .serving (.window r true) ∧ r.port = p := by
  have free := outstanding_of_served served
  unfold State.inService at service
  split at service
  next r discard port =>
    cases discard with
    | true => exact ⟨r, port, by simpa using service⟩
    | false => simp [State.outstanding, port, service] at free
  next => cases service

theorem memPortKept_held {s : State} {p : Port} {r : Request} (served : s.busServed p = true)
    (service : s.inService p = true) (own : r.port = p) :
    MemPortKept s (s.setUnit p { s.unit p with held := some r, answer := none }) := by
  obtain ⟨r', port, its⟩ := discarded_of_served served service
  refine ⟨fun _ idle => (nomatch port.symm.trans idle), fun h q => ?_⟩
  rw [setUnit_unit]
  split
  next same =>
    subst same
    refine ⟨(h q).1, fun _ => ⟨r', port, its⟩, fun r'' request => ?_⟩
    rcases request with request | request
    · exact (h q).2.2 r'' (.inl request)
    · cases request
      exact own
  next => exact h q

theorem memPortKept_request {s : State} {p : Port} {r : Request} (service : s.inService p = false)
    (own : r.port = p) :
    MemPortKept s (s.setUnit p { s.unit p with request := some r, answer := none }).posted := by
  refine ⟨fun h => posted_idleHasNoWork fun idle => (h idle).2.1, fun h => posted_oneRequestEach fun q => ?_⟩
  have kept : ∀ u, (s.setUnit p u).inService q = s.inService q := fun _ => rfl
  rw [kept, setUnit_memPort, setUnit_unit]
  split
  next same =>
    subst same
    refine ⟨fun busy => absurd (service.symm.trans busy) Bool.false_ne_true, (h q).2.1, fun r' request => ?_⟩
    rcases request with request | request
    · cases request
      exact own
    · exact (h q).2.2 r' (.inr request)
  next => exact h q

theorem memPortKept_windowAccess {s t : State} {p : Port} {access : Access} {addr : BitVec 21} {burst : Nat}
    {enables : BitVec 4} {data : List Word}
    (h : exec (.windowAccess p access addr burst enables data) s = .next t) : MemPortKept s t := by
  simp only [exec, execWindowAccess] at h
  split at h
  next taken =>
    have served := (Bool.and_eq_true_iff.1 taken).2
    split at h
    · cases h
      exact (portKept_answerBus _ _ _ _).memPortKept
    · split at h
      · cases h
        exact ((portKept_of_directoryChange (directoryChange_post _ _ _)).trans
          (portKept_answerBus _ _ _ _)).memPortKept
      next m _ =>
        have own : (requestOf p (s.unit p) m access addr burst enables data).port = p := rfl
        split at h
        next waits =>
          cases h
          exact memPortKept_held served waits own
        next free =>
          cases h
          exact memPortKept_request (by simpa using free) own
  next =>
    cases h
    exact (PortKept.refl s).memPortKept

theorem memPortKept_burstEnds {s t : State} {upsets : List Bits39}
    (h : exec (.windowRequestComplete upsets) s = .next t ∨ exec (.uncorrectableError upsets) s = .next t) :
    MemPortKept s t := by
  rcases h with h | h
  · simp only [exec, execWindowRequestComplete, State.endWindow] at h
    split at h
    next r discard port =>
      cases h
      split
      · obtain ⟨idle, one⟩ := ended_keeps port (.inl rfl)
        exact ⟨fun _ => idle, one⟩
      · obtain ⟨idle, one⟩ := ended_keeps (place := 0) port (.inr rfl)
        exact ⟨fun _ => idle, one⟩
    next =>
      cases h
      exact (PortKept.refl s).memPortKept
  · simp only [exec, execUncorrectableError] at h
    split at h
    next r discard port =>
      split at h
      · cases h
        obtain ⟨idle, one⟩ := ended_keeps port (.inl rfl)
        exact ⟨fun _ => idle, one⟩
      · cases h
        exact (PortKept.refl s).memPortKept
    next =>
      cases h
      exact (PortKept.refl s).memPortKept

theorem memPortKept_scrubBurst {s t : State} (h : exec .scrubBurstComplete s = .next t) : MemPortKept s t := by
  simp only [exec, execScrubBurstComplete] at h
  split at h
  next q port =>
    cases h
    let s1 : State := { s with memory := scrubPlaces q (List.range 8) s.memory }
    have busy : s1.memPort ≠ .idle := fun idle => nomatch port.symm.trans idle
    have kept : PortKept s (if q.burst < 63 then s1.postScrub q.frame (q.burst + 1) else s1.completeScrub) := by
      refine (portKept_of_aside (s := s) (t := s1) rfl).trans ?_
      split
      · exact portKept_postScrub _ _ busy
      · exact portKept_completeScrub busy
    refine ⟨fun _ => afterService_idleHasNoWork _, fun h => afterService_oneRequestEach ?_⟩
    exact requestsPlain_of_one (kept.keeps_oneRequestEach h) fun r window =>
      nomatch (kept.memPort.trans port).symm.trans window
  next =>
    cases h
    exact (PortKept.refl s).memPortKept

/-- Without a discarded request in service, a refresh begins with no access held. -/
theorem oneRequestEach_beginRefresh {s : State} (h : OneRequestEach s)
    (free : ∀ r, s.memPort ≠ .serving (.window r true)) : OneRequestEach s.beginRefresh :=
  (show RequestsPlain s.beginRefresh from requestsPlain_of_one (s := s) h free).oneRequestEach nofun

theorem memPortKept_refresh {s t : State}
    (h : exec .refreshTimerExpiry s = .next t ∨ exec .refreshComplete s = .next t) : MemPortKept s t := by
  rcases h with h | h
  · simp only [exec, execRefreshTimerExpiry] at h
    split at h
    · split at h
      next idle =>
        cases h
        exact ⟨fun _ refresh => (nomatch refresh), fun h => oneRequestEach_beginRefresh
          (s := { s with refreshAt := s.refreshAt + 7 }) h fun r busy => nomatch idle.symm.trans busy⟩
      next busy =>
        cases h
        exact ⟨fun _ idle => absurd idle busy, id⟩
    · cases h
      exact (PortKept.refl s).memPortKept
  · simp only [exec, execRefreshComplete] at h
    split at h
    next refreshing =>
      cases h
      refine ⟨fun _ => afterService_idleHasNoWork _, fun h => afterService_oneRequestEach ?_⟩
      exact requestsPlain_of_one (s := s) h fun r busy => nomatch refreshing.1.symm.trans busy
    · cases h
      exact (PortKept.refl s).memPortKept

/-! ### The two resets -/

/-- An answer to be discarded is a service all the same: whose request it is does not change (R175). -/
theorem discardAnswer_inService (s : State) (p q : Port) : (s.discardAnswer p).inService q = s.inService q := by
  unfold State.discardAnswer
  split
  next r discard port => split <;> simp [State.inService, port]
  next => rfl

theorem discardAnswer_eq (s : State) (p : Port) :
    s.discardAnswer p = { s with memPort := (s.discardAnswer p).memPort } := by
  unfold State.discardAnswer
  split
  · split <;> rfl
  · rfl

theorem discardAnswer_unit (s : State) (p q : Port) : (s.discardAnswer p).unit q = s.unit q := by
  rw [discardAnswer_eq]
  rfl

/-- A request in service of another port, answer wanted or not, is left alone (R175). -/
theorem discardAnswer_memPort {s : State} {p : Port} {r : Request} {d : Bool}
    (port : s.memPort = .serving (.window r d)) (other : r.port ≠ p) :
    (s.discardAnswer p).memPort = .serving (.window r d) := by
  simp [State.discardAnswer, port, other]

theorem discardAnswer_idle {s : State} {p : Port} (idle : (s.discardAnswer p).memPort = .idle) :
    s.memPort = .idle := by
  unfold State.discardAnswer at idle
  split at idle
  · split at idle <;> cases idle
  · exact idle

theorem memPortKept_discard (s : State) (p : Port) : MemPortKept s ((s.discardAnswer p).resetUnit p) := by
  have units : ∀ q, ((s.discardAnswer p).resetUnit p).unit q =
      if q = p then PortUnit.reset true else s.unit q := fun q => by
    rw [resetUnit_unit, discardAnswer_unit]
  refine ⟨fun h idle => ?_, fun h q => ?_⟩
  · obtain ⟨scrub, due, requests⟩ := h (discardAnswer_idle (s := s) (p := p) idle)
    refine ⟨?_, ?_, fun q => ?_⟩
    · rw [State.resetUnit, setUnit_scrubRequest, discardAnswer_eq]
      exact scrub
    · rw [State.resetUnit, setUnit_refreshDue, discardAnswer_eq]
      exact due
    · rw [units]
      split
      · rfl
      · exact requests q
  · rw [units]
    split
    next => exact ⟨fun _ => rfl, fun waits => absurd rfl waits, by rintro r (h | h) <;> cases h⟩
    next apart =>
      obtain ⟨served, waits, own⟩ := h q
      refine ⟨fun service => served ((discardAnswer_inService s p q).symm.trans service), fun held => ?_, own⟩
      obtain ⟨r, port, its⟩ := waits held
      exact ⟨r, discardAnswer_memPort port (its ▸ apart), its⟩

theorem portKept_foldl {op : State → Nat → State} (h : ∀ s f, DirectoryChange s (op s f)) (l : List Nat)
    (s : State) : PortKept s (l.foldl op s) := by
  induction l generalizing s with
  | nil => exact PortKept.refl s
  | cons f rest ih => exact (portKept_of_directoryChange (h s f)).trans (ih _)

theorem portKept_departing (s : State) (p : Port) :
    PortKept s ((((s.withdrawAll p).giveUpAll p).freeTokenOf p).dropNotify p) := by
  have withdrawn : PortKept s (s.withdrawAll p) :=
    (portKept_of_aside (s := s) (t := s.nextDraw) rfl).trans
      (portKept_foldl (fun t f => directoryChange_withdraw t f p) _ _)
  have givenUp : ∀ t : State, PortKept t (t.giveUpAll p) := fun t =>
    (portKept_of_aside (s := t) (t := t.nextDraw) rfl).trans
      (portKept_foldl (fun t f => directoryChange_giveUp t f p) _ _)
  have freed : ∀ t : State, PortKept t (t.freeTokenOf p) := fun t => by
    unfold State.freeTokenOf
    split
    · exact portKept_of_aside rfl
    · exact PortKept.refl t
  exact ((withdrawn.trans (givenUp _)).trans (freed _)).trans (portKept_of_aside rfl)

theorem memPortKept_portReset {s t : State} {p : Port} (h : exec (.portReset p) s = .next t) :
    MemPortKept s t := by
  simp only [exec, execPortReset] at h
  split at h
  · cases h
    have kept : PortKept s (s.setUnit p { s.unit p with prst := true }) := portKept_setUnit rfl rfl
    exact kept.memPortKept
  · cases h
    obtain ⟨idle, one⟩ := (portKept_departing s p).memPortKept
    obtain ⟨idle', one'⟩ := memPortKept_discard ((((s.withdrawAll p).giveUpAll p).freeTokenOf p).dropNotify p) p
    exact ⟨fun h => idle' (idle h), fun h => one' (one h)⟩

theorem memPortKept_partReset {s t : State} (h : exec .partReset s = .next t) : MemPortKept s t := by
  cases h
  refine ⟨fun _ _ => ⟨rfl, rfl, fun p => by rw [afterPartReset_unit]; rfl⟩, fun _ p => ?_⟩
  rw [afterPartReset_unit]
  exact ⟨nofun, fun waits => absurd rfl waits, by rintro r (h | h) <;> cases h⟩

/-- Every command keeps the memory port's invariants. -/
theorem exec_memPortKept {i : Instr} {s t : State} (h : exec i s = .next t) : MemPortKept s t := by
  by_cases works : WorksMemory i
  · cases i with
    | windowAccess => exact memPortKept_windowAccess h
    | windowRequestComplete => exact memPortKept_burstEnds (.inl h)
    | uncorrectableError => exact memPortKept_burstEnds (.inr h)
    | scrubBurstComplete => exact memPortKept_scrubBurst h
    | refreshTimerExpiry => exact memPortKept_refresh (.inl h)
    | refreshComplete => exact memPortKept_refresh (.inr h)
    | partReset => exact memPortKept_partReset h
    | portReset => exact memPortKept_portReset h
    | _ => exact absurd works id
  · have run : Deeds (fun _ => True) True s t :=
      exec_deeds works (fun _ _ => trivial) (fun _ _ => trivial) (fun _ => trivial) h
    exact ⟨run.keeps fun _ _ => deed_keeps_idleHasNoWork, run.keeps fun _ _ => deed_keeps_oneRequestEach⟩

theorem tick_memPortKept (s : State) : MemPortKept s s.tick := by
  unfold State.tick
  dsimp only
  split
  · have kept : PortKept s { s with now := s.now + 1 } := portKept_of_aside rfl
    exact kept.memPortKept
  · exact (portKept_of_aside (by rfl)).memPortKept

theorem step_memPortKept {s t : State} (h : step s = .next t) : MemPortKept s t := by
  unfold step at h
  split at h
  · cases h
    exact tick_memPortKept s
  next i rest _ =>
    obtain ⟨idle, one⟩ := exec_memPortKept h
    exact ⟨fun hs => idle hs, fun hs => one hs⟩

/-- Settles O8: the memory port's rows end in the arbiter's choice, which leaves an IDLE port with nothing
waiting; the other commands are deeds, and a scrub posting makes an IDLE port choose at once. -/
theorem stepKeepsIdlePortWithoutWork : Obligations.StepKeepsIdlePortWithoutWork :=
  ⟨fun _ _ hs h => (step_memPortKept h).1 hs, fun _ _ hs h => (step_memPortKept h).2 hs⟩

/-! ### A port's commands and the other ports' units -/

/-- With no window request waiting, a choice of the arbiter leaves the port units alone. -/
theorem arbitrate_unit {s : State} (none : ∀ p, (s.unit p).request = none) (q : Port) :
    s.arbitrate.unit q = s.unit q := by
  refine arbitrate_induct (I := fun t => (∀ p, (t.unit p).request = .none) ∧ t.unit q = s.unit q)
    (G := fun t => t.unit q = s.unit q) s ?_ ?_ ?_ ?_ ?_ ⟨none, rfl⟩
  · exact fun t ht _ => ht.2
  · exact fun t v ht _ => ht.2
  · exact fun t p r ht request _ => nomatch (ht.1 p).symm.trans request
  · exact fun t p r ht request _ => nomatch (ht.1 p).symm.trans request
  · exact fun t ht _ => ht.2

theorem postScrub_unit {s : State} (idle : IdleHasNoWork s) (f b : Nat) (q : Port) :
    (s.postScrub f b).unit q = s.unit q := by
  unfold State.postScrub State.posted
  split
  next free => exact arbitrate_unit (s := { s with burst := b, scrubRequest := some ⟨f, b⟩ }) (idle free).2.2 q
  next => rfl

theorem deed_keeps_otherUnit {p q : Port} (apart : q ≠ p) {u : PortUnit} {s t : State}
    (h : Deed (· = p) True s t) (hs : IdleHasNoWork s ∧ UnitDirectoryChange u (s.unit q)) :
    IdleHasNoWork t ∧ UnitDirectoryChange u (t.unit q) := by
  refine ⟨deed_keeps_idleHasNoWork h hs.1, ?_⟩
  cases h with
  | directory _ h => exact hs.2.trans (h.2 q)
  | unit p' v may _ _ =>
    subst may
    rw [setUnit_unit_ne _ _ apart]
    exact hs.2
  | aside _ h =>
    rw [h]
    exact hs.2
  | postScrub f b _ =>
    rw [postScrub_unit hs.1]
    exact hs.2

/-- Settles O17: each deed of the command edits its own port's unit or changes the directory; a scrub posting
grants no window request, since an IDLE memory port has none waiting. -/
theorem portCommandsKeepOtherUnits : Obligations.PortCommandsKeepOtherUnits := by
  intro i code p q s t hcode hport apart hset hclear idle h
  have command : ¬WorksMemory i := fun works => by
    cases i with
    | windowAccess | windowRequestComplete | uncorrectableError | scrubBurstComplete | refreshTimerExpiry
      | refreshComplete | partReset | portReset => cases hcode
    | _ => exact works
  have own : ∀ p', portOf i = some p' → p' = p := fun p' h' => by
    rw [hport] at h'
    cases h'
    rfl
  have run : Deeds (· = p) True s t := exec_deeds command own
    (fun ⟨p', other⟩ => by
      rcases other with rfl | rfl
      · cases hport; exact absurd rfl hset
      · cases hport; exact absurd rfl hclear) (fun _ => trivial) h
  exact (run.keeps (I := fun u => IdleHasNoWork u ∧ UnitDirectoryChange (s.unit q) (u.unit q))
    (fun _ _ => deed_keeps_otherUnit apart) ⟨idle, rfl⟩).2

/-! ### A request that enters service (R92, R105) -/

/-- A window request in service, its answer wanted, was in service before or is admitted by the directory as it
stands. -/
def ServesAdmitted (s t : State) : Prop :=
  ∀ r, t.memPort = .serving (.window r false) → s.memPort ≠ t.memPort → t.grantFault r = none

theorem grantFault_eq_none {s : State} {r : Request} : s.grantFault r = none ↔
    (s.entry r.frame).state ≠ .poisoned ∧ (s.entry r.frame).holders.get r.port = true ∧
      (r.access = .write → (s.entry r.frame).state = .priv) := by
  unfold State.grantFault
  dsimp only
  split
  next poisoned => simp [poisoned]
  next sound =>
    split
    next absent => simp [absent]
    next holds =>
      split
      next wrong => simpa [sound, holds] using wrong
      next right => simp [sound, holds]; simpa using right

theorem servesAdmitted_of_same {s t : State} (h : t.memPort = s.memPort) : ServesAdmitted s t :=
  fun _ _ moved => absurd h.symm moved

theorem ServesAdmitted.of_before {s t u : State} (h : ServesAdmitted t u) (same : t.memPort = s.memPort) :
    ServesAdmitted s u := fun r port moved => h r port (same ▸ moved)

theorem ServesAdmitted.then_kept {s t u : State} (h : ServesAdmitted s t) (same : u.memPort = t.memPort)
    (entries : ∀ f, u.entry f = t.entry f) : ServesAdmitted s u := by
  intro r port moved
  rw [same] at port moved
  have admitted := h r port moved
  simpa only [State.grantFault, entries] using admitted

/-- What the arbiter puts into service the directory admits (R92). -/
theorem arbitrate_admits {s : State} {r : Request} (h : s.arbitrate.memPort = .serving (.window r false)) :
    s.arbitrate.grantFault r = none := by
  refine arbitrate_induct (I := fun _ => True)
    (G := fun t => t.memPort = .serving (.window r false) → t.grantFault r = none) s ?_ ?_ ?_ ?_ ?_ trivial h
  · exact fun t _ _ port => nomatch port
  · exact fun t v _ _ port => nomatch port
  · intro t p r' _ _ admitted port
    cases port
    exact admitted
  · exact fun _ _ _ _ _ _ => trivial
  · exact fun t _ _ port => nomatch port

theorem servesAdmitted_posted (s : State) : ServesAdmitted s s.posted := by
  unfold State.posted
  split
  · exact fun r port _ => arbitrate_admits port
  · exact servesAdmitted_of_same rfl

theorem servesAdmitted_afterService (s t : State) : ServesAdmitted t s.afterService := by
  unfold State.afterService
  split
  · exact fun r port => nomatch port
  · exact fun r port _ => arbitrate_admits port

theorem servesAdmitted_appendScrub (s : State) (f : Nat) (origin : Origin) (notify : Option Port) :
    ServesAdmitted s (s.appendScrub f origin notify) := by
  let s1 := s.putEntry f { s.entry f with state := .scrubbing, pinned := false }
  let s2 : State := { s1 with scrubQueue := s1.scrubQueue ++ [⟨f, origin, notify⟩] }
  show ServesAdmitted s (if s.scrubQueue.isEmpty then s2.postScrub f 0 else s2)
  split
  · exact (servesAdmitted_posted { s2 with burst := 0, scrubRequest := some ⟨f, 0⟩ }).of_before rfl
  · exact servesAdmitted_of_same rfl

theorem servesAdmitted_then_reply {s t : State} (h : ServesAdmitted s t) (p : Port) (c : ResultCode)
    (r1 r2 r3 : Word) : ServesAdmitted s (t.reply p c r1 r2 r3) := h.then_kept rfl (fun _ => rfl)

section Owners

variable {p : Port}

theorem servesAdmitted_queueClaim (f : Nat) (m : Mode) (tag : BitVec 8) (s : State) :
    ServesAdmitted s (s.queueClaim p f m tag) := by
  let s2 := (s.takeRecord p).putEntry f
    { s.entry f with queue := (s.entry f).queue ++ [⟨p, m, tag, s.arrival⟩] }
  let promoted := (s.entry f).state == .uninitialized && scrubRoom s
  let s3 := if promoted then s2.appendScrub f .promotion none else s2
  let s4 := if (s.entry f).queue.isEmpty then s3.advance false f else s3
  have served : ServesAdmitted s s4 := by
    by_cases hp : promoted = true
    · have state : (s3.entry f).state = .scrubbing := by
        simp only [s3, if_pos hp, appendScrub_entry, if_true]
      have scrubbing : s3.advance false f = s3 :=
        advance_of_unused false (by simp [state]) (by simp [state, inUse])
      have same : s4 = s2.appendScrub f .promotion none := by
        simp only [s4, scrubbing, ite_self]
        simp only [s3, if_pos hp]
      rw [same]
      exact (servesAdmitted_appendScrub s2 _ _ _).of_before rfl
    · refine servesAdmitted_of_same ?_
      simp only [s4, s3, if_neg hp]
      split
      · exact (portKept_of_directoryChange (directoryChange_advance s2 false f)).memPort
      · rfl
  exact servesAdmitted_then_reply served _ _ _ _ _

theorem servesAdmitted_refuse (s : State) (p : Port) (c : ResultCode) : ServesAdmitted s (s.refuse p c) :=
  servesAdmitted_of_same rfl

theorem servesAdmitted_ownClaim (a : Nat × Mode × BitVec 8) (s : State) : ServesAdmitted s (ownClaim p a s) := by
  obtain ⟨f, m, tag⟩ := a
  simp only [ownClaim]
  split
  · exact servesAdmitted_refuse _ _ _
  · split
    · exact servesAdmitted_refuse _ _ _
    · split
      next o _ =>
        have kept : PortKept s (s.takeClaim p f m tag o) := by
          unfold State.takeClaim State.claimReply
          dsimp only
          have taken := portKept_of_directoryChange (directoryChange_putEntry s f (takenEntry (s.entry f) p m o))
          split
          · exact (taken.trans (portKept_of_directoryChange (directoryChange_advance _ _ _))).trans
              (portKept_setUnit rfl rfl)
          · exact taken.trans (portKept_setUnit rfl rfl)
        exact servesAdmitted_of_same kept.memPort
      · exact servesAdmitted_refuse _ _ _
      · split
        · exact servesAdmitted_refuse _ _ _
        · split
          · exact servesAdmitted_refuse _ _ _
          · exact servesAdmitted_queueClaim _ _ _ _

theorem servesAdmitted_ownRelease (a : Nat × Bool) (s : State) : ServesAdmitted s (ownRelease p a s) := by
  obtain ⟨f, clear⟩ := a
  have left := directoryChange_leave s f p
  simp only [ownRelease]
  split
  · exact servesAdmitted_refuse _ _ _
  · split
    · exact servesAdmitted_refuse _ _ _
    · refine servesAdmitted_then_reply ?_ _ _ _ _ _
      split
      · exact (servesAdmitted_appendScrub _ _ _ _).of_before
          (portKept_of_directoryChange (left.trans (directoryChange_dropRecall _ f))).memPort
      · exact servesAdmitted_of_same
          (portKept_of_directoryChange (left.trans (directoryChange_afterLeaving _ _ _))).memPort

theorem servesAdmitted_ownScrub (f : Nat) (s : State) : ServesAdmitted s (ownScrub p f s) := by
  simp only [ownScrub]
  split
  · exact servesAdmitted_refuse _ _ _
  · split
    · exact servesAdmitted_refuse _ _ _
    · exact servesAdmitted_then_reply ((servesAdmitted_appendScrub _ _ _ _).of_before
        (portKept_of_directoryChange ((directoryChange_putEntry s f _).trans
          (directoryChange_postSet _ _ _))).memPort) _ _ _ _ _

theorem servesAdmitted_issue {α : Type} {s : State} {code : Word} {off : Bool} {args : Option α}
    {owner : α → State → State} (h : ∀ a t, ServesAdmitted t (owner a t)) :
    ServesAdmitted s (s.issue p code off args owner) := by
  unfold State.issue
  split
  · dsimp only
    split
    · exact servesAdmitted_of_same rfl
    · split
      · exact servesAdmitted_of_same rfl
      · exact (h _ _).of_before rfl
  · exact servesAdmitted_of_same rfl

theorem servesAdmitted_issueAuthority {α : Type} {s : State} {code : Word} {args : Option α}
    {owner : α → State → State} (h : ∀ a t, ServesAdmitted t (owner a t)) :
    ServesAdmitted s (s.issueAuthority p code args owner) := by
  unfold State.issueAuthority
  split
  · dsimp only
    split
    · exact servesAdmitted_of_same rfl
    · split
      · exact servesAdmitted_of_same rfl
      · split
        · exact servesAdmitted_of_same rfl
        next a => exact ((h a (s.takeCode p code)).of_before rfl).then_kept rfl fun _ => rfl
  · exact servesAdmitted_of_same rfl

end Owners

theorem servesAdmitted_windowAccess {s t : State} {p : Port} {access : Access} {addr : BitVec 21} {burst : Nat}
    {enables : BitVec 4} {data : List Word}
    (h : exec (.windowAccess p access addr burst enables data) s = .next t) : ServesAdmitted s t := by
  simp only [exec, execWindowAccess] at h
  split at h
  · split at h
    · cases h
      exact servesAdmitted_of_same rfl
    · split at h
      · cases h
        exact servesAdmitted_of_same rfl
      · split at h
        · cases h
          exact servesAdmitted_of_same rfl
        · cases h
          exact (servesAdmitted_posted _).of_before rfl
  · cases h
    exact servesAdmitted_of_same rfl

theorem servesAdmitted_portReset {s t : State} {p : Port} (h : exec (.portReset p) s = .next t) :
    ServesAdmitted s t := by
  simp only [exec, execPortReset] at h
  split at h
  · cases h
    exact servesAdmitted_of_same rfl
  · cases h
    let u := (((s.withdrawAll p).giveUpAll p).freeTokenOf p).dropNotify p
    have before : u.memPort = s.memPort := (portKept_departing s p).memPort
    intro r port moved
    have port : (u.discardAnswer p).memPort = .serving (.window r false) := port
    have same : (u.discardAnswer p).memPort = u.memPort := by
      unfold State.discardAnswer at port ⊢
      split
      next r' d serving =>
        simp only [serving] at port
        split at port
        · cases port
        next other => simp [serving, other]
      next => rfl
    exact absurd (same.trans before).symm moved

/-- The rows in which the memory port works leave the choice of the next service to the arbiter. -/
theorem servesAdmitted_of_works {i : Instr} {s t : State} (works : WorksMemory i) (h : exec i s = .next t) :
    ServesAdmitted s t := by
  cases i with
  | windowAccess => exact servesAdmitted_windowAccess h
  | windowRequestComplete =>
    simp only [exec, execWindowRequestComplete, State.endWindow] at h
    split at h
    · cases h
      split
      · exact servesAdmitted_afterService _ s
      · exact servesAdmitted_afterService _ s
    · cases h
      exact servesAdmitted_of_same rfl
  | uncorrectableError =>
    simp only [exec, execUncorrectableError] at h
    split at h
    · split at h
      · cases h
        exact servesAdmitted_afterService _ s
      · cases h
        exact servesAdmitted_of_same rfl
    · cases h
      exact servesAdmitted_of_same rfl
  | scrubBurstComplete =>
    simp only [exec, execScrubBurstComplete] at h
    split at h
    · cases h
      exact servesAdmitted_afterService _ s
    · cases h
      exact servesAdmitted_of_same rfl
  | refreshTimerExpiry =>
    simp only [exec, execRefreshTimerExpiry] at h
    split at h
    · split at h
      · cases h
        exact fun r port => nomatch port
      · cases h
        exact servesAdmitted_of_same rfl
    · cases h
      exact servesAdmitted_of_same rfl
  | refreshComplete =>
    simp only [exec, execRefreshComplete] at h
    split at h
    · cases h
      exact servesAdmitted_afterService _ s
    · cases h
      exact servesAdmitted_of_same rfl
  | partReset =>
    cases h
    exact fun r port => nomatch port
  | portReset => exact servesAdmitted_portReset h
  | _ => exact absurd works id

theorem deed_keeps_memPort {mine : Port → Prop} {s t : State} (h : Deed mine False s t) :
    t.memPort = s.memPort := by
  cases h with
  | directory _ h => exact (portKept_of_directoryChange h).memPort
  | unit p u _ _ _ => rfl
  | aside _ h => exact (portKept_of_aside h).memPort
  | postScrub f b may => exact may.elim

theorem exec_servesAdmitted {i : Instr} {s t : State} (h : exec i s = .next t) : ServesAdmitted s t := by
  by_cases works : WorksMemory i
  · exact servesAdmitted_of_works works h
  by_cases scrubs : AppendsScrub i
  · cases i with
    | rstnRelease strap =>
      simp only [exec, execRstnRelease] at h
      split at h
      · cases h
        exact (servesAdmitted_appendScrub (State.released s strap) 0 .sweep none).of_before rfl
      · cases h
        exact servesAdmitted_of_same rfl
    | claim => cases h; exact servesAdmitted_issue servesAdmitted_ownClaim
    | release => cases h; exact servesAdmitted_issue servesAdmitted_ownRelease
    | scrub => cases h; exact servesAdmitted_issueAuthority servesAdmitted_ownScrub
    | _ => exact absurd scrubs id
  · have run : Deeds (fun _ => True) False s t :=
      exec_deeds works (fun _ _ => trivial) (fun _ _ => trivial) scrubs h
    exact servesAdmitted_of_same (run.keeps (I := fun u => u.memPort = s.memPort)
      (fun _ _ deed same => (deed_keeps_memPort deed).trans same) rfl)

/-- Settles O18: only the arbiter puts a request into service, after the check of R92, and no command changes the
directory behind its choice. -/
theorem servedAccessHoldsItsFrame : Obligations.ServedAccessHoldsItsFrame := by
  intro i s t r h port moved
  obtain ⟨sound, holds, writes⟩ := grantFault_eq_none.1 (exec_servesAdmitted h r port moved)
  exact ⟨holds, sound, writes⟩

end Sys2Proof.Proofs
end

section
/-! PROOFS. The interrupt enable (section 9.5) and the control region's other words (section 10.1). -/

namespace Sys2Proof.Proofs
set_option Elab.async false

open Sys2Proof.Machine Sys2Proof.Safety Sys2Proof.Laws

/-! ### The interrupt enable -/

theorem exec_intEnableWrite {s : State} {p : Port} (v : Word) (h : s.busServed p = true) :
    exec (.intEnableWrite p v) s =
      .next (s.setUnit p { s.unit p with intEnable := v.getLsbD 0, answer := some ⟨false, []⟩ }) := by
  show Host.Outcome.next (s.writeControl p fun u => { u with intEnable := v.getLsbD 0 }) = _
  rw [writeControl_served _ h]

/-- The interrupt enables of all ports stay as they are. -/
def EnablesKept (s t : State) : Prop := ∀ q, (t.unit q).intEnable = (s.unit q).intEnable

theorem EnablesKept.trans {s t u : State} (h : EnablesKept s t) (k : EnablesKept t u) : EnablesKept s u :=
  fun q => (k q).trans (h q)

theorem enablesKept_of_directoryChange {s t : State} (h : DirectoryChange s t) : EnablesKept s t := fun q => by
  rw [h.2 q]

theorem enablesKept_setUnit {s : State} {p : Port} {u : PortUnit}
    (h : u.intEnable = (s.unit p).intEnable := by rfl) : EnablesKept s (s.setUnit p u) := fun q => by
  rw [setUnit_unit]
  split
  next same => rw [same]; exact h
  next => rfl

theorem enablesKept_issue {α : Type} {s : State} {p : Port} {code : Word} {off : Bool} {args : Option α}
    {owner : α → State → State} (h : ∀ a t, EnablesKept t (owner a t)) :
    EnablesKept s (s.issue p code off args owner) := by
  have taken : EnablesKept s (s.takeCode p code) := enablesKept_setUnit
  unfold State.issue
  split
  · dsimp only
    split
    · exact taken.trans enablesKept_setUnit
    · split
      · exact taken.trans enablesKept_setUnit
      · exact taken.trans (h _ _)
  · exact fun _ => rfl

theorem enablesKept_ownAttach (p : Port) (a : Unit) (s : State) : EnablesKept s (ownAttach p a s) := by
  have online : EnablesKept s (s.setUnit p { s.unit p with online := true }) := enablesKept_setUnit
  unfold ownAttach
  split
  · exact enablesKept_setUnit
  · exact online.trans enablesKept_setUnit

theorem enablesKept_foldl {op : State → Nat → State} (h : ∀ s f, DirectoryChange s (op s f)) (l : List Nat)
    (s : State) : EnablesKept s (l.foldl op s) := by
  induction l generalizing s with
  | nil => exact fun _ => rfl
  | cons f rest ih => exact (enablesKept_of_directoryChange (h s f)).trans (ih _)

theorem freeTokenOf_unit (s : State) (p q : Port) : (s.freeTokenOf p).unit q = s.unit q := by
  unfold State.freeTokenOf
  split <;> rfl

theorem enablesKept_detachPort (s : State) (p : Port) : EnablesKept s (s.detachPort p) := by
  let t := ((s.withdrawAll p).freeTokenOf p).dropNotify p
  have withdrawn : EnablesKept s (s.withdrawAll p) :=
    enablesKept_foldl (fun t f => directoryChange_withdraw t f p) _ s.nextDraw
  have left : EnablesKept s t := withdrawn.trans fun q => congrArg PortUnit.intEnable (freeTokenOf_unit _ p q)
  have cleared : EnablesKept t (t.clearMaps p) := enablesKept_setUnit
  exact (left.trans cleared).trans enablesKept_setUnit

theorem enablesKept_ownDetach (p : Port) (a : Unit) (s : State) : EnablesKept s (ownDetach p a s) := by
  simp only [ownDetach]
  split
  · exact enablesKept_setUnit
  · exact (enablesKept_detachPort s p).trans enablesKept_setUnit

/-- A record is kept or discarded whatever the interrupt enable (R180, R181). -/
theorem postUnit_intEnable (u : PortUnit) (b : Bool) (r : EventRecord) :
    postUnit { u with intEnable := b } r = { postUnit u r with intEnable := b } := by
  unfold postUnit
  dsimp only
  split
  · split <;> rfl
  · rfl

/-- No other word of the control region shows the interrupt enable (R191, R195). -/
theorem controlRead_setEnable (s : State) (p : Port) (b : Bool) {n : Nat} (h : n ≠ 2) :
    (s.setUnit p { s.unit p with intEnable := b }).controlRead p n = s.controlRead p n := by
  have status : (s.setUnit p { s.unit p with intEnable := b }).portStatus p = s.portStatus p := by
    simp [State.portStatus, State.holdsToken, State.recallPending]
  have record : (s.setUnit p { s.unit p with intEnable := b }).headRecord p = s.headRecord p := by
    simp [State.headRecord]
  unfold State.controlRead
  rw [status, record, setUnit_unit_same]
  split
  all_goals first
    | rfl
    | exact absurd rfl h

theorem depart_unit (s : State) (p : Port) : (s.depart p).unit p = PortUnit.reset true := by
  rw [depart_eq, resetUnit_unit, if_pos rfl]

/-- Settles O27. -/
theorem interruptEnable : Obligations.InterruptEnable := by
  refine ⟨fun p v s => exec_intEnableWrite v, controlRead_intEnable, fun s t p h => ?_, fun s t p run h => ?_,
    fun s t p q h => ?_, postUnit_intEnable, fun s p b n => controlRead_setEnable s p b⟩
  · cases h
    rw [afterPartReset_unit]
    rfl
  · simp only [exec, execPortReset, run, Bool.false_eq_true, if_false] at h
    cases h
    rw [depart_unit]
    rfl
  · rcases h with h | h
    · cases h
      exact enablesKept_issue (enablesKept_ownAttach p) q
    · cases h
      exact enablesKept_issue (enablesKept_ownDetach p) q

/-! ### Accesses of the control region -/

theorem controlIndex_of_addr {n : Nat} {addr : BitVec 21} (h : addr.toNat / 4 * 4 = 0x100000 + 4 * n) :
    controlIndex addr = n := by
  unfold controlIndex
  omega

theorem controlInRange_of_addr {n burst : Nat} {addr : BitVec 21} (h : addr.toNat / 4 * 4 = 0x100000 + 4 * n)
    (h1 : 1 ≤ burst) (h8 : burst ≤ 8) (room : n + burst ≤ 64) : controlInRange addr burst = true := by
  have index := controlIndex_of_addr h
  have beyond : ¬addr.toNat < 0x100000 := by omega
  simp [controlInRange, burstInRange, inWindow, beyond, index, h1, h8, room]

theorem controlInRange_beyond {addr : BitVec 21} {burst : Nat}
    (h : 64 < (addr.toNat - 0x100000) / 4 + burst) : controlInRange addr burst = false := by
  have beyond : ¬controlIndex addr + burst ≤ 64 := Nat.not_le.2 h
  simp [controlInRange, beyond]

theorem takeControl_write {s : State} {p : Port} {addr : BitVec 21} {burst n : Nat} {data : List Word}
    (addressed : addr.toNat = 0x100000 + 4 * n) (count : data.length = burst) (h1 : 1 ≤ burst) (h8 : burst ≤ 8)
    (room : n + burst ≤ 64) :
    s.takeControl p .write addr burst data = State.takeRows (controlWriteRows p n data) s := by
  have aligned : addr.toNat / 4 * 4 = 0x100000 + 4 * n := by omega
  have whole : data.take burst = data := List.take_of_length_le (Nat.le_of_eq count)
  simp only [State.takeControl, controlInRange_of_addr aligned h1 h8 room, if_true,
    controlIndex_of_addr aligned, whole]

/-- The rows of a burst are its first row and then the rest (R190, log 6). -/
theorem takeRows_cons_eq (i : Instr) (rest : List Instr) (s : State) :
    State.takeRows (i :: rest) s = State.takeRows rest (State.takeRows [i] s) := by
  obtain ⟨t, ht⟩ := exec_next i s
  rw [takeRows_cons rest ht, takeRows_cons [] ht, takeRows_nil]

theorem exec_eq_takeRows (i : Instr) (s : State) : exec i s = .next (State.takeRows [i] s) := by
  obtain ⟨t, ht⟩ := exec_next i s
  rw [takeRows_cons [] ht, takeRows_nil, ht]

theorem controlWriteRow_eq (p : Port) (n : Nat) (v : Word) :
    controlWriteRow p n v =
      if n = 1 then .portStatusWrite p v else if n = 2 then .intEnableWrite p v
        else if n = 8 then issueOf p v else if n = 21 then .eventPop p v else .registerWrite p n v := by
  by_cases h1 : n = 1
  · subst h1; rfl
  by_cases h2 : n = 2
  · subst h2; rfl
  by_cases h8 : n = 8
  · subst h8; rfl
  by_cases h21 : n = 21
  · subst h21; rfl
  · rw [controlWriteRow_other p n v h1 h2 h8 h21, if_neg h1, if_neg h2, if_neg h8, if_neg h21]

/-! ### An ignored bus takes no row (R164) -/

theorem issueOf_unserved {p : Port} {s : State} (v : Word) (h : s.busServed p = false) :
    exec (issueOf p v) s = .next s := by
  rcases issueOf_cases p v with ⟨code, port, _⟩ | bad
  · refine exec_unserved port (fun same => ?_) (fun same => ?_) h
    · rw [same] at code; cases code
    · rw [same] at code; cases code
  · rw [bad]
    exact exec_unserved rfl nofun nofun h

theorem controlWriteRow_unserved {p : Port} {s : State} (n : Nat) (v : Word) (h : s.busServed p = false) :
    exec (controlWriteRow p n v) s = .next s := by
  rw [controlWriteRow_eq]
  split
  · exact exec_unserved rfl nofun nofun h
  · split
    · exact exec_unserved rfl nofun nofun h
    · split
      · exact issueOf_unserved v h
      · split
        · exact exec_unserved rfl nofun nofun h
        · exact exec_unserved rfl nofun nofun h

theorem takeRows_unserved {p : Port} {s : State} (h : s.busServed p = false) (n : Nat) (data : List Word) :
    State.takeRows (controlWriteRows p n data) s = s := by
  induction data generalizing n with
  | nil => rfl
  | cons v rest ih => exact (takeRows_cons _ (controlWriteRow_unserved n v h)).trans (ih (n + 1))

theorem takeControl_unserved {p : Port} {s : State} (h : s.busServed p = false) (access : Access)
    (addr : BitVec 21) (burst : Nat) (data : List Word) : s.takeControl p access addr burst data = s := by
  unfold State.takeControl
  split
  · cases access with
    | read => simp [State.readControl, h]
    | write => exact takeRows_unserved h _ _
  · exact takeRows_cons [] (exec_unserved rfl nofun nofun h)

/-! ### The rows of the control region on a served bus -/

section Served

variable {p : Port} {s : State} (h : s.busServed p = true)
include h

theorem exec_badCommand {code : Word} (bad : issueOf p code = .badCommand p code) :
    exec (.badCommand p code) s = .next (answered s p code ⟨2, 0, 0, 0⟩) := by
  have taken : exec (.badCommand p code) s = .next ((s.takeCode p code).refuse p .badCommand) :=
    if_pos (by simp [codeIsBad, bad, h])
  rw [taken, takeCode_eq_answered, refuse_answered]
  rfl

theorem exec_registerWrite {n : Nat} (plain : plainRegister n = true) (v : Word) :
    exec (.registerWrite p n v) s = .next (s.setUnit p
      { s.unit p with args := writeArgs (s.unit p).args n v, answer := some ⟨false, []⟩ }) := by
  have taken : exec (.registerWrite p n v) s =
      .next (s.writeControl p fun u => { u with args := writeArgs u.args n v }) := if_pos plain
  rw [taken, writeControl_served _ h]

theorem exec_controlAccessError {a : Access} {addr : BitVec 21} {burst : Nat} (region : 0x100000 ≤ addr.toNat)
    (h1 : 1 ≤ burst) (h8 : burst ≤ 8) (beyond : 64 < (addr.toNat - 0x100000) / 4 + burst) :
    exec (.controlAccessError p a addr burst) s =
      .next (s.setUnit p { s.unit p with answer := some ⟨true, []⟩ }) := by
  have window : inWindow addr = false := by simpa [inWindow] using region
  exact if_pos (by simp [Instr.wellFormed, burstInRange, controlIndex, window, h1, h8, beyond, h])

/-- An ARG word keeps the value written, and the other three stay (R191). -/
theorem exec_argWrite {n : Nat} (v : Word) (hn : n < 4) : ∃ t, exec (.registerWrite p (4 + n) v) s = .next t ∧
    t.controlRead p (4 + n) = v ∧
    (∀ m < 4, m ≠ n → t.controlRead p (4 + m) = s.controlRead p (4 + m)) ∧
    t = s.setUnit p { s.unit p with args := (t.unit p).args, answer := some ⟨false, []⟩ } := by
  refine ⟨_, exec_registerWrite h (by interval_cases n <;> rfl) v, ?_, fun m hm apart => ?_, ?_⟩
  · interval_cases n <;> simp [State.controlRead, writeArgs]
  · interval_cases n <;> interval_cases m <;> first
      | exact absurd rfl apart
      | simp [State.controlRead, writeArgs]
  · rw [setUnit_unit_same]

end Served

/-- Settles O28. -/
theorem controlRegionWrites : Obligations.ControlRegionWrites := by
  intro p s h
  refine ⟨fun code => exec_badCommand h, fun v hv => exec_portStatusWrite_clear hv h,
    fun v hv => exec_portStatusWrite_keep hv h, fun n v => exec_argWrite h v, fun n v plain other => ?_,
    fun a addr burst region h1 h8 beyond => ⟨exec_controlAccessError h region h1 h8 beyond, fun data => ?_⟩,
    fun n v addr hn addressed => ?_, fun n v rest addr more short room addressed => ?_,
    fun n burst addr h1 h8 room aligned => ?_, fun u a addr burst data off => ?_,
    fun u a addr burst data off => takeControl_unserved off a addr burst data⟩
  · have same : writeArgs (s.unit p).args n v = (s.unit p).args := by
      unfold writeArgs
      split
      all_goals first
        | rfl
        | omega
    rw [exec_registerWrite h plain, same]
  · simp only [State.takeControl, controlInRange_beyond beyond, Bool.false_eq_true, if_false]
    rw [takeRows_cons [] (exec_controlAccessError h region h1 h8 beyond), takeRows_nil]
  · rw [takeControl_write (data := [v]) (burst := 1) addressed rfl (Nat.le_refl 1) (by omega) (by omega), ← controlWriteRow_eq]
    exact exec_eq_takeRows _ s
  · have some : 1 ≤ rest.length := List.length_pos_iff.2 more
    have next : (addr + 4).toNat = 0x100000 + 4 * (n + 1) := by
      rw [BitVec.toNat_add, addressed]
      show (0x100000 + 4 * n + 4) % 2 ^ 21 = _
      omega
    rw [takeControl_write addressed (by simp) (by omega) (by omega) (by omega),
      takeControl_write (data := [v]) (burst := 1) addressed rfl (Nat.le_refl 1) (by omega) (by omega),
      takeControl_write next rfl some (by omega) (by omega)]
    exact takeRows_cons_eq _ _ s
  · simp only [State.takeControl, controlInRange_of_addr aligned h1 h8 room, if_true, State.readControl, h,
      controlIndex_of_addr aligned]
    rfl
  · have off : u.busServed p = false := by
      rcases off with off | off <;> simp [State.busServed, off]
    exact takeControl_unserved off a addr burst data

end Sys2Proof.Proofs
end

section
/-! PROOFS. The release of RSTn and its sweep (O29), DETACH (O32), and a port reset (O30). -/

namespace Sys2Proof.Proofs
set_option Elab.async false

open Sys2Proof.Machine Sys2Proof.Safety Sys2Proof.Laws

/-! ### One request waits -/

theorem choice_of_only {s : State} {x : Requester} {v : Service} (waits : s.waitingOf x = some v)
    (others : ∀ y, y ≠ x → s.waitingOf y = none) : s.choice = some (x, v) := by
  cases h : s.choice with
  | none => exact absurd (choice_eq_none.1 h x) (by simp [waits])
  | some c =>
    obtain ⟨y, w⟩ := c
    have chosen := waitingOf_of_choice h
    by_cases same : y = x
    · subst same
      rw [waits] at chosen
      cases chosen
      rfl
    · rw [others y same] at chosen
      cases chosen

/-- The scrub engine's request alone waits: it is served at once, and the pointer, having passed the engine, stands
at P0 (R102). -/
theorem arbitrate_scrub {s : State} {v : ScrubRequest} (scrub : s.scrubRequest = some v)
    (ports : ∀ p, (s.unit p).request = none) :
    s.arbitrate = { s with scrubRequest := none, arbiter := .port .P0, memPort := .serving (.scrub v) } := by
  have chosen : s.choice = some (.scrub, .scrub v) := by
    refine choice_of_only (by simp [State.waitingOf, scrub]) fun y apart => ?_
    cases y with
    | port p => simp [State.waitingOf, ports p]
    | scrub => exact absurd rfl apart
  rw [State.arbitrate, State.arbitrateFuel, chosen]
  rfl

theorem arbitrate_none {s : State} (none : NoneWaiting s) : s.arbitrate = { s with memPort := .idle } := by
  rw [State.arbitrate, State.arbitrateFuel, choice_eq_none.2 (noneWaiting_iff.1 none)]

/-- A burst posted to an IDLE memory port for which no window request waits is served at once (R103, R127). -/
theorem postScrub_idle {s : State} (idle : s.memPort = .idle) (ports : ∀ p, (s.unit p).request = none) (f b : Nat) :
    s.postScrub f b = { s with burst := b, scrubRequest := none, arbiter := .port .P0,
                               memPort := .serving (.scrub ⟨f, b⟩) } := by
  have chooses : s.postScrub f b =
      State.arbitrate { s with burst := b, scrubRequest := some ⟨f, b⟩ } := if_pos idle
  rw [chooses, arbitrate_scrub (s := { s with burst := b, scrubRequest := some ⟨f, b⟩ }) rfl ports]

theorem postScrub_busy {s : State} (busy : s.memPort ≠ .idle) (f b : Nat) :
    s.postScrub f b = { s with burst := b, scrubRequest := some ⟨f, b⟩ } := if_neg busy

/-! ### An entry whose holders stay -/

@[simp] theorem countChange_same (b : Bool) (n : Nat) : countChange b b n = n := by
  cases b <;> rfl

theorem holdingChange_same {old new : Entry} (h : new.holders = old.holders) (ports : PerPort PortUnit) :
    holdingChange old new ports = ports := by
  simp [holdingChange, h]

/-! ### The release of RSTn -/

theorem framesOfStrap_eq (strap : Fin 4) : framesOfStrap strap = 1024 * 2 ^ strap.val := by
  revert strap
  decide

/-- The entry of a frame that the scrub engine takes from its reset values (R124). -/
def Entry.swept : Entry := { Entry.reset with state := .scrubbing }

/-- The first frame of all is listed, and the UNINITIALIZED count goes down by one (R16, R133). -/
theorem putEntry_first {s : State} (dir : s.dir = []) (sweep : s.sweepComplete = false)
    (more : 1 < s.uninitCount) (f : Nat) :
    s.putEntry f Entry.swept =
      { s with dir := [(f, Entry.swept)], uninitCount := s.uninitCount - 1, sweepComplete := false } := by
  have entry : s.entry f = Entry.reset := entry_of_dir_nil dir f
  have units : holdingChange Entry.reset Entry.swept s.ports = s.ports := holdingChange_same rfl s.ports
  have listed : putDirectory s.dir f Entry.swept = [(f, Entry.swept)] := by rw [dir]; rfl
  have status : (s.sweepComplete || (Entry.reset.state == .uninitialized && Entry.swept.state != .uninitialized &&
      countChange (Entry.reset.state == .uninitialized) (Entry.swept.state == .uninitialized) s.uninitCount == 0)) =
        false := by
    have left : (s.uninitCount - 1 == 0) = false := by simp; omega
    rw [sweep]
    exact left
  unfold State.putEntry
  dsimp only
  rw [entry, units, listed, status]
  rfl

/-- Settles O29: on the reset values the sweep takes frame 0, and its burst 0 is the one request. -/
theorem rstnReleaseStartsSweep : Obligations.RstnReleaseStartsSweep := by
  intro strap s
  refine ⟨fun run resets => ?_, fun run => if_neg (by simp [run])⟩
  obtain ⟨dir, queue, sweep, -, -, port, scrub, -, ports⟩ := resets run
  let u := State.released s strap
  have released : exec (.rstnRelease strap) s = .next (u.appendScrub 0 .sweep none) := if_pos run
  have more : 1 < framesOfStrap strap := by
    rw [framesOfStrap_eq]
    have := Nat.one_le_two_pow (n := strap.val)
    omega
  have entry : { u.entry 0 with state := .scrubbing, pinned := false } = Entry.swept := by
    rw [entry_of_dir_nil (s := u) dir 0]
    rfl
  have taken := putEntry_first (s := u) dir sweep more 0
  have appended : u.appendScrub 0 .sweep none = State.postScrub
      { u.putEntry 0 Entry.swept with scrubQueue := [⟨0, .sweep, none⟩] } 0 0 := by
    have empty : u.scrubQueue = [] := queue
    simp only [State.appendScrub, entry, putEntry_scrubQueue, empty, List.isEmpty_nil, if_true, List.nil_append]
  rw [released, appended, taken]
  rw [postScrub_idle (by exact port) (by exact fun p => (ports p).1)]
  simp only [u, State.released, framesOfStrap_eq, ← scrub, ← sweep]
  rfl

/-! ### The frames on which a port does not wait -/

theorem dir_entry {s : State} (h : Directory.wf s.dir) {c : Nat × Entry} (hc : c ∈ s.dir) :
    s.entry c.1 = c.2 := by
  have found := (sparse_find_iff_mem h.1 c.1 c.2).2 hc
  simp [State.entry, found]

theorem waitsIn_of_framesWaited {s : State} (h : Directory.wf s.dir) {p : Port} {f : Nat}
    (hf : f ∈ s.framesWaited p) : waitsIn (s.entry f).queue p = true := by
  obtain ⟨c, hc, rfl⟩ := List.mem_map.1 hf
  obtain ⟨listed, waits⟩ := List.mem_filter.1 hc
  rw [dir_entry h listed]
  exact waits

theorem holds_of_framesHeld {s : State} (h : Directory.wf s.dir) {p : Port} {f : Nat}
    (hf : f ∈ s.framesHeld p) : (s.entry f).holders.get p = true := by
  obtain ⟨c, hc, rfl⟩ := List.mem_map.1 hf
  obtain ⟨listed, holds⟩ := List.mem_filter.1 hc
  rw [dir_entry h listed]
  exact holds

theorem recallFieldChange_foldl {op : State → Nat → State} (h : ∀ s g, OthersKept g s (op s g)) {f : Nat}
    (l : List Nat) (s : State) (hf : f ∉ l) : RecallFieldChange (s.entry f) ((l.foldl op s).entry f) := by
  induction l generalizing s with
  | nil => rfl
  | cons g rest ih =>
    obtain ⟨apart, later⟩ := not_or.1 (List.mem_cons.not.1 hf)
    exact (h s g f apart).trans (ih _ later)

/-- A frame on which a port does not wait keeps all but its recall when the port's claims are withdrawn (R51). -/
theorem withdrawAll_entry {s : State} (h : Directory.wf s.dir) {p : Port} {f : Nat}
    (free : waitsIn (s.entry f).queue p = false) :
    RecallFieldChange (s.entry f) ((s.withdrawAll p).entry f) := by
  refine recallFieldChange_foldl (fun t g => othersKept_withdraw t g p) _ s.nextDraw fun listed => ?_
  have waits := waitsIn_of_framesWaited h ((freeOrder_perm s _).mem_iff.1 listed)
  rw [free] at waits
  cases waits

/-! ### The holding count of a port that is let in nowhere -/

/-- A port's holding count stays. -/
def HoldingKept (p : Port) (s t : State) : Prop := (t.unit p).holding = (s.unit p).holding

theorem HoldingKept.trans {p : Port} {s t u : State} (h : HoldingKept p s t) (k : HoldingKept p t u) :
    HoldingKept p s u := Eq.trans k h

section Holding

variable {p : Port}

theorem holdingKept_putEntry {s : State} {f : Nat} {e : Entry}
    (h : e.holders.get p = (s.entry f).holders.get p) : HoldingKept p s (s.putEntry f e) := by
  rw [HoldingKept, putEntry_unit, h, countChange_same]

theorem holdingKept_post (s : State) (q : Port) (r : EventRecord) : HoldingKept p s (s.post q r) := by
  rw [HoldingKept, post_unit]
  split
  next same => rw [postUnit_touches, same]
  next => rfl

theorem holdingKept_postList (l : List Port) (s : State) (r : EventRecord) :
    HoldingKept p s (s.postList l r) := by
  induction l generalizing s with
  | nil => rfl
  | cons q rest ih => exact (holdingKept_post s q r).trans (ih _)

theorem holdingKept_returnRecord (s : State) (q : Port) : HoldingKept p s (s.returnRecord q) := by
  have counted : (s.returnRecord q).unit p =
      (s.setUnit q { s.unit q with waiting := (s.unit q).waiting - 1 }).unit p := rfl
  rw [HoldingKept, counted, setUnit_unit]
  split
  next same => rw [same]
  next => rfl

theorem holdingKept_startRecall (s : State) (f : Nat) (i : Fin 8) : HoldingKept p s (s.startRecall f i) := by
  unfold State.startRecall
  dsimp only
  split
  · rfl
  next h _ _ =>
    have named : HoldingKept p s (State.putEntry { s with recalls := s.recalls.set i (some
        { frame := f, requester := h.port, wanted := h.mode, toRelease := toReleaseOf (s.entry f),
          deadline := s.now + s.recallTimeout * 10 }) } f { s.entry f with recallField := .active i }) :=
      holdingKept_putEntry rfl
    exact named.trans (holdingKept_postList _ _ _)

theorem holdingKept_deferRecall (s : State) (f : Nat) : HoldingKept p s (s.deferRecall f) := by
  unfold State.deferRecall
  dsimp only
  split
  · rfl
  · exact holdingKept_putEntry (s := { s with deferred := _ }) rfl

theorem holdingKept_ensureRecall (s : State) (f : Nat) : HoldingKept p s (s.ensureRecall f) := by
  unfold State.ensureRecall
  split
  · split
    · exact holdingKept_startRecall s f _
    · exact holdingKept_deferRecall s f
  · rfl
  · rfl

theorem holdingKept_feedDeferred (i : Fin 8) (l : List Deferred) (s : State) :
    HoldingKept p s (State.feedDeferred i l s) := by
  induction l generalizing s with
  | nil => rfl
  | cons d rest ih =>
    have cleared : HoldingKept p s (s.putEntry d.frame { s.entry d.frame with recallField := .none }) :=
      holdingKept_putEntry rfl
    rw [State.feedDeferred]
    split
    · exact holdingKept_startRecall { s with deferred := rest } d.frame i
    · exact cleared.trans (ih _)

theorem holdingKept_dropRecall (s : State) (f : Nat) : HoldingKept p s (s.dropRecall f) := by
  unfold State.dropRecall
  dsimp only
  split
  · rfl
  · exact holdingKept_putEntry (s := { s with deferred := _ }) rfl
  next i _ =>
    have freed : HoldingKept p s
        (State.putEntry { s with recalls := s.recalls.set i none } f { s.entry f with recallField := .none }) :=
      holdingKept_putEntry rfl
    exact freed.trans (holdingKept_feedDeferred _ _ _)

/-- A grant to another port leaves the holding count (R36). -/
theorem holdingKept_grantHead (s : State) (f : Nat) {h : WaitRec} (forced upgraded : Bool) (apart : h.port ≠ p) :
    HoldingKept p s (s.grantHead f h forced upgraded) := by
  let s1 := (s.putEntry f { s.entry f with queue := (s.entry f).queue.tail }).returnRecord h.port
  let s2 := s1.dropRecall f
  have dequeued : HoldingKept p s s1 :=
    (holdingKept_putEntry (e := { s.entry f with queue := (s.entry f).queue.tail }) rfl).trans
      (holdingKept_returnRecord _ _)
  have joined : HoldingKept p s2 (s2.putEntry f { s2.entry f with
      holders := (s2.entry f).holders.set h.port true, state := heldState h.mode }) :=
    holdingKept_putEntry (perPort_get_set_ne _ _ (Ne.symm apart))
  exact ((dequeued.trans (holdingKept_dropRecall s1 f)).trans joined).trans (holdingKept_post _ _ _)

theorem holdingKept_advanceFuel (forced : Bool) (f n : Nat) (s : State)
    (free : waitsIn (s.entry f).queue p = false) : HoldingKept p s (State.advanceFuel forced f n s) := by
  induction n generalizing s with
  | zero => rfl
  | succ n ih =>
    rw [State.advanceFuel]
    split
    · rfl
    next h t hq =>
      have apart : h.port ≠ p := (waitsIn_false_iff _ _).1 free h (by rw [hq]; exact List.mem_cons_self)
      have grant : ∀ u, HoldingKept p s (State.advanceFuel forced f n (s.grantHead f h forced u)) := fun u =>
        (holdingKept_grantHead s f forced u apart).trans
          (ih _ ((noNewcomer_grantHead forced u hq).notWaiting free))
      split
      · exact grant _
      · exact grant _
      · exact grant _
      · split
        · exact grant _
        · split
          · rfl
          · exact holdingKept_ensureRecall s f
      · exact holdingKept_ensureRecall s f
      all_goals rfl

/-- A port whose claim is withdrawn is let in nowhere by it (R47). -/
theorem holdingKept_withdraw (s : State) (f : Nat) : HoldingKept p s (s.withdraw f p) := by
  let s1 := (s.putEntry f
    { s.entry f with queue := (s.entry f).queue.filter (fun w => w.port != p) }).returnRecord p
  have dequeued : HoldingKept p s s1 :=
    (holdingKept_putEntry
      (e := { s.entry f with queue := (s.entry f).queue.filter (fun w => w.port != p) }) rfl).trans
      (holdingKept_returnRecord _ _)
  have free : waitsIn ((s1.dropRecall f).entry f).queue p = false := by
    refine (noNewcomer_dropRecall s1 f).notWaiting ?_
    rw [returnRecord_entry, entry_putEntry_same]
    exact waitsIn_filter_ne _ p
  unfold State.withdraw
  dsimp only
  split
  · exact (dequeued.trans (holdingKept_dropRecall s1 f)).trans (holdingKept_advanceFuel _ _ _ _ free)
  · exact dequeued

theorem holdingKept_withdrawAll (s : State) : HoldingKept p s (s.withdrawAll p) := by
  have folded : ∀ (l : List Nat) (t : State), HoldingKept p t (l.foldl (fun t f => t.withdraw f p) t) := by
    intro l
    induction l with
    | nil => exact fun _ => rfl
    | cons f rest ih => exact fun t => (holdingKept_withdraw t f).trans (ih _)
  exact folded _ s.nextDraw

end Holding

/-! ### DETACH -/

/-- All that withdrawing claims can change (R51): as a directory change, but for the draw. -/
theorem directoryChange_withdrawAll (s : State) (p : Port) : DirectoryChange s.nextDraw (s.withdrawAll p) := by
  have folded : ∀ (l : List Nat) (t : State), DirectoryChange t (l.foldl (fun t f => t.withdraw f p) t) := by
    intro l
    induction l with
    | nil => exact fun t => DirectoryChange.refl t
    | cons f rest ih => exact fun t => (directoryChange_withdraw t f p).trans (ih _)
  exact folded _ s.nextDraw

theorem withdrawAll_unit (s : State) (p q : Port) :
    UnitDirectoryChange (s.unit q) ((s.withdrawAll p).unit q) := (directoryChange_withdrawAll s p).2 q

theorem dropNotify_notify {s : State} {p : Port} {d : ScrubEntry} (h : d ∈ (s.dropNotify p).scrubQueue) :
    d.notify ≠ some p := by
  obtain ⟨c, _, rfl⟩ := List.mem_map.1 h
  split
  · exact nofun
  next other => exact other

theorem detachPort_notify {s : State} {p : Port} {d : ScrubEntry} (h : d ∈ (s.detachPort p).scrubQueue) :
    d.notify ≠ some p := by
  simp only [State.detachPort, State.clearMaps, setUnit_scrubQueue] at h
  exact dropNotify_notify h

theorem detachPort_unit (s : State) (p q : Port) :
    (s.detachPort p).unit q =
      if q = p then
        { s.unit p with online := false, events := [], overrun := false, waiting := 0, map0 := [], map1 := [],
                        context := .c0 }
      else (s.withdrawAll p).unit q := by
  let t := ((s.withdrawAll p).freeTokenOf p).dropNotify p
  have before : ∀ r, t.unit r = (s.withdrawAll p).unit r := freeTokenOf_unit _ p
  have detached : s.detachPort p = (t.clearMaps p).setUnit p
      { (t.clearMaps p).unit p with waiting := 0, events := [], overrun := false, online := false } := rfl
  rw [detached, setUnit_unit]
  split
  next =>
    have cleared : (t.clearMaps p).unit p = { t.unit p with map0 := [], map1 := [], context := .c0 } :=
      setUnit_unit_same _ _ _
    have holding : ((s.withdrawAll p).unit p).holding = (s.unit p).holding := holdingKept_withdrawAll s
    rw [cleared, before, withdrawAll_unit s p p]
    simp [holding]
  next apart => exact (setUnit_unit_ne t _ apart).trans (before q)

theorem detachPort_memory (s : State) (p : Port) : (s.detachPort p).memory = s.memory :=
  edits_memory (B := Scope.noArray) (edits_detachPort s p trivial trivial) id

theorem exec_detach_holding {s : State} {p : Port} (ready : Ready s p) (holds : 0 < (s.unit p).holding) :
    exec (.detach p) s = .next (answered s p 0x02 ⟨12, pack [fLarge (s.unit p).holding], 0, 0⟩) := by
  show Host.Outcome.next (s.issue p 0x02 false (some ()) (ownDetach p)) = _
  have held : 0 < ((answered s p 0x02 (s.unit p).results).unit p).holding := by
    rw [answered_unit_same]
    exact holds
  rw [issue_ready ready rfl, ownDetach, if_pos held, reply_answered, answered_unit_same]
  rfl

theorem exec_detach_departs {s : State} {p : Port} (ready : Ready s p) (none : (s.unit p).holding = 0) :
    exec (.detach p) s = .next (((answered s p 0x02 (s.unit p).results).detachPort p).reply p .ok
      (pack [fSmall (s.unit p).waiting, fFlag (decide (s.token = some p))])
      (pack [fLarge ((s.unit p).map0.length + (s.unit p).map1.length)])
      (pack [fSmall (s.unit p).events.length, fFlag (s.unit p).overrun])) := by
  show Host.Outcome.next (s.issue p 0x02 false (some ()) (ownDetach p)) = _
  have unheld : ¬0 < ((answered s p 0x02 (s.unit p).results).unit p).holding := by
    rw [answered_unit_same]
    exact Nat.not_lt.2 (Nat.le_of_eq none)
  have holder : (answered s p 0x02 (s.unit p).results).holdsToken p = decide (s.token = some p) :=
    beq_eq_decide (s.token) (some p)
  rw [issue_ready ready rfl, ownDetach, if_neg unheld, answered_unit_same, holder]

theorem reply_unit (s : State) (p q : Port) (c : ResultCode) (r1 r2 r3 : Word) :
    (s.reply p c r1 r2 r3).unit q =
      if q = p then { s.unit p with results := ⟨BitVec.ofNat 32 c.value, r1, r2, r3⟩ } else s.unit q :=
  setUnit_unit s p q _

/-- Settles O32: the departure is the withdrawal of the claims, which changes no holding count of the port and no
frame on which it does not wait but in the recall, and then the port's own unit. -/
theorem detachDeparts : Obligations.DetachDeparts := by
  intro p s ready
  refine ⟨exec_detach_holding ready, fun none wf => ⟨_, exec_detach_departs ready none, ?_, ?_, ?_, ?_, ?_, ?_, ?_⟩⟩
  · rw [reply_unit, if_pos rfl, detachPort_unit, if_pos rfl, answered_unit_same]
    rfl
  · exact detachPort_token (answered s p 0x02 (s.unit p).results) p
  · exact fun f => detachPort_notWaiting (answered s p 0x02 (s.unit p).results) p f
  · intro f free
    have kept := withdrawAll_entry (s := answered s p 0x02 (s.unit p).results) wf (p := p) (f := f) free
    rw [← detachPort_entry] at kept
    exact kept
  · intro d hd
    rw [State.reply, State.setResults, setUnit_scrubQueue] at hd
    exact detachPort_notify hd
  · exact detachPort_memory (answered s p 0x02 (s.unit p).results) p
  · intro q apart
    have kept := withdrawAll_unit (answered s p 0x02 (s.unit p).results) p q
    rw [answered_unit_ne _ _ _ apart] at kept
    rw [reply_unit, if_neg apart, detachPort_unit, if_neg apart]
    exact kept

end Sys2Proof.Proofs
end

section
/-! PROOFS. A port reset (O30): what becomes of each frame that the port held. -/

namespace Sys2Proof.Proofs
set_option Elab.async false

open Sys2Proof.Machine Sys2Proof.Safety Sys2Proof.Laws

/-! ### A frame that needs no recall and has none -/

/-- A frame that needs no recall and has none keeps its entry: the recall unit serves other frames only (R58). -/
def Undisturbed (f : Nat) (s t : State) : Prop :=
  needsRecall (s.entry f) = false → (s.entry f).recallField = .none → t.entry f = s.entry f

theorem Undisturbed.refl (f : Nat) (s : State) : Undisturbed f s s := fun _ _ => rfl

theorem Undisturbed.trans {f : Nat} {s t u : State} (h : Undisturbed f s t) (k : Undisturbed f t u) :
    Undisturbed f s u := by
  intro needs none
  have same := h needs none
  rw [← same] at needs none
  exact (k needs none).trans same

theorem undisturbed_putEntry {s : State} {f g : Nat} (e : Entry) (apart : f ≠ g) :
    Undisturbed f s (s.putEntry g e) := fun _ _ => entry_putEntry_ne s e apart

theorem Undisturbed.of_entry {f : Nat} {s t : State} (h : t.entry f = s.entry f) : Undisturbed f s t :=
  fun _ _ => h

theorem undisturbed_startRecall {s : State} {f g : Nat} (i : Fin 8) (apart : f ≠ g) :
    Undisturbed f s (s.startRecall g i) := by
  unfold State.startRecall
  dsimp only
  split
  · exact Undisturbed.refl f s
  · refine Undisturbed.of_entry ?_
    rw [postSet_entry]
    exact entry_putEntry_ne _ _ apart

theorem undisturbed_deferRecall {s : State} {f g : Nat} (apart : f ≠ g) :
    Undisturbed f s (s.deferRecall g) := by
  unfold State.deferRecall
  dsimp only
  split
  · exact Undisturbed.refl f s
  · exact Undisturbed.of_entry (entry_putEntry_ne _ _ apart)

theorem undisturbed_ensureRecall {s : State} {f g : Nat} (apart : f ≠ g) :
    Undisturbed f s (s.ensureRecall g) := by
  unfold State.ensureRecall
  split
  · split
    · exact undisturbed_startRecall _ apart
    · exact undisturbed_deferRecall apart
  · exact Undisturbed.refl f s
  · exact Undisturbed.refl f s

/-- A recall field that reads none already is cleared without effect. -/
theorem undisturbed_clear (s : State) (f g : Nat) :
    Undisturbed f s (s.putEntry g { s.entry g with recallField := .none }) := by
  intro _ none
  rw [entry_putEntry]
  split
  next same => rw [← same, ← none]
  next => rfl

theorem undisturbed_feedDeferred (f : Nat) (i : Fin 8) (l : List Deferred) (s : State) :
    Undisturbed f s (State.feedDeferred i l s) := by
  induction l generalizing s with
  | nil => exact Undisturbed.refl f s
  | cons d rest ih =>
    rw [State.feedDeferred]
    split
    next needed =>
      intro needs none
      have apart : f ≠ d.frame := by
        rintro rfl
        rw [needed] at needs
        cases needs
      exact undisturbed_startRecall (s := { s with deferred := rest }) i apart needs none
    next => exact (undisturbed_clear s f d.frame).trans (ih _)

/-- Removing a recall leaves a frame without one alone, though the freed record may serve another (R58, R66). -/
theorem undisturbed_dropRecall (f : Nat) (s : State) (g : Nat) : Undisturbed f s (s.dropRecall g) := by
  unfold State.dropRecall
  dsimp only
  split
  · exact Undisturbed.refl f s
  · have cleared := undisturbed_clear { s with deferred := s.deferred.filter (fun d => d.frame != g) } f g
    exact cleared
  next i _ =>
    have cleared := undisturbed_clear { s with recalls := s.recalls.set i none } f g
    exact Undisturbed.trans (s := s) cleared (undisturbed_feedDeferred f _ _ _)

/-- The recall of a frame that needs none is gone once it is removed. -/
theorem dropRecall_entry_self {s : State} {f : Nat} (needs : needsRecall (s.entry f) = false) :
    (s.dropRecall f).entry f = { s.entry f with recallField := .none } := by
  unfold State.dropRecall
  dsimp only
  split
  next none => rw [← none]
  next => exact entry_putEntry_same _ _ _
  next i _ =>
    let s2 := State.putEntry { s with recalls := s.recalls.set i none } f { s.entry f with recallField := .none }
    have cleared : s2.entry f = { s.entry f with recallField := .none } := entry_putEntry_same _ _ _
    refine (undisturbed_feedDeferred f i _ s2 ?_ ?_).trans cleared
    · rw [cleared]
      exact needs
    · rw [cleared]

theorem undisturbed_grantHead {s : State} {f g : Nat} (h : WaitRec) (forced upgraded : Bool) (apart : f ≠ g) :
    Undisturbed f s (s.grantHead g h forced upgraded) := by
  let s1 := (s.putEntry g { s.entry g with queue := (s.entry g).queue.tail }).returnRecord h.port
  let s2 := s1.dropRecall g
  have dequeued : Undisturbed f s s1 := Undisturbed.of_entry (entry_putEntry_ne s _ apart)
  exact (dequeued.trans (undisturbed_dropRecall f s1 g)).trans
    (Undisturbed.of_entry (s := s2) (entry_putEntry_ne s2 _ apart))

theorem undisturbed_advanceFuel (forced : Bool) {f g : Nat} (apart : f ≠ g) (n : Nat) (s : State) :
    Undisturbed f s (State.advanceFuel forced g n s) := by
  induction n generalizing s with
  | zero => exact Undisturbed.refl f s
  | succ n ih =>
    have grant : ∀ h u, Undisturbed f s (State.advanceFuel forced g n (s.grantHead g h forced u)) := fun h u =>
      (undisturbed_grantHead h forced u apart).trans (ih _)
    rw [State.advanceFuel]
    split
    · exact Undisturbed.refl f s
    · split
      · exact grant _ _
      · exact grant _ _
      · exact grant _ _
      · split
        · exact grant _ _
        · split
          · exact Undisturbed.refl f s
          · exact undisturbed_ensureRecall apart
      · exact undisturbed_ensureRecall apart
      all_goals exact Undisturbed.refl f s

theorem undisturbed_advance (s : State) (forced : Bool) {f g : Nat} (apart : f ≠ g) :
    Undisturbed f s (s.advance forced g) := undisturbed_advanceFuel forced apart _ s

theorem undisturbed_afterLeaving (s : State) (forced : Bool) {f g : Nat} (apart : f ≠ g) :
    Undisturbed f s (s.afterLeaving forced g) := by
  unfold State.afterLeaving
  dsimp only
  split
  · split
    · exact (undisturbed_putEntry _ apart).trans (undisturbed_advance _ _ apart)
    · exact undisturbed_advance _ _ apart
  · exact Undisturbed.refl f s

theorem undisturbed_leaveToRelease (f : Nat) (s : State) (g : Nat) (p : Port) :
    Undisturbed f s (s.leaveToRelease g p).1 := by
  unfold State.leaveToRelease
  split
  · exact Undisturbed.refl f s
  · split
    · dsimp only
      split
      · exact undisturbed_dropRecall f s g
      · exact Undisturbed.of_entry rfl
    · exact Undisturbed.refl f s

theorem undisturbed_leave (s : State) {f g : Nat} (p : Port) (apart : f ≠ g) :
    Undisturbed f s (s.leave g p).1 :=
  (undisturbed_putEntry _ apart).trans (undisturbed_leaveToRelease f _ g p)

theorem undisturbed_withdraw (s : State) {f g : Nat} (p : Port) (apart : f ≠ g) :
    Undisturbed f s (s.withdraw g p) := by
  let s1 := (s.putEntry g
    { s.entry g with queue := (s.entry g).queue.filter (fun w => w.port != p) }).returnRecord p
  have dequeued : Undisturbed f s s1 := Undisturbed.of_entry (entry_putEntry_ne s _ apart)
  unfold State.withdraw
  dsimp only
  split
  · exact (dequeued.trans (undisturbed_dropRecall f s1 g)).trans (undisturbed_advance _ _ apart)
  · exact dequeued

theorem undisturbed_quarantine (s : State) {f g : Nat} (p : Port) (apart : f ≠ g) :
    Undisturbed f s (s.quarantine g p) := by
  have quarantined := undisturbed_putEntry (s := s) { s.entry g with
    holders := (s.entry g).holders.set p false, state := .quarantined, pinned := false } apart
  exact (quarantined.trans (undisturbed_dropRecall f _ g)).trans (Undisturbed.of_entry (postSet_entry _ _ _ _))

theorem undisturbed_giveUp (s : State) {f g : Nat} (p : Port) (apart : f ≠ g) :
    Undisturbed f s (s.giveUp g p) := by
  unfold State.giveUp
  split
  · exact undisturbed_quarantine s p apart
  · exact (undisturbed_leave s p apart).trans (undisturbed_afterLeaving _ _ apart)

theorem undisturbed_foldl {op : State → Nat → State} {f : Nat} (h : ∀ s g, f ≠ g → Undisturbed f s (op s g))
    (l : List Nat) (s : State) (hf : f ∉ l) : Undisturbed f s (l.foldl op s) := by
  induction l generalizing s with
  | nil => exact Undisturbed.refl f s
  | cons g rest ih =>
    obtain ⟨apart, later⟩ := not_or.1 (List.mem_cons.not.1 hf)
    exact (h s g apart).trans (ih _ later)

/-! ### The frames of a departure, one by one -/

theorem framesHeld_nodup {s : State} (h : Directory.wf s.dir) (p : Port) : (s.framesHeld p).Nodup := by
  have rising : (s.framesHeld p).Pairwise (· < ·) := List.pairwise_map.2 (h.1.filter _)
  exact rising.imp Nat.ne_of_lt

theorem framesWaited_nodup {s : State} (h : Directory.wf s.dir) (p : Port) : (s.framesWaited p).Nodup := by
  have rising : (s.framesWaited p).Pairwise (· < ·) := List.pairwise_map.2 (h.1.filter _)
  exact rising.imp Nat.ne_of_lt

/-- Among the frames that an operation runs through one after the other, each has its turn once: before and after
it only its recall may change, and if it needs none and has none, nothing. -/
theorem foldl_turn {op : State → Nat → State} {f : Nat} (others : ∀ s g, OthersKept g s (op s g))
    (calm : ∀ s g, f ≠ g → Undisturbed f s (op s g)) {l : List Nat} (once : l.Nodup) (hf : f ∈ l) (s : State) :
    ∃ u, RecallFieldChange (s.entry f) (u.entry f) ∧ Undisturbed f s u ∧
      RecallFieldChange ((op u f).entry f) ((l.foldl op s).entry f) ∧ Undisturbed f (op u f) (l.foldl op s) := by
  obtain ⟨before, after, rfl⟩ := List.append_of_mem hf
  have later : f ∉ after := (List.nodup_cons.1 (List.nodup_append.1 once).2.1).1
  have earlier : f ∉ before := fun hb => (List.nodup_append.1 once).2.2 f hb f List.mem_cons_self rfl
  have run : (before ++ f :: after).foldl op s = after.foldl op (op (before.foldl op s) f) := by
    rw [List.foldl_append, List.foldl_cons]
  rw [run]
  exact ⟨before.foldl op s, recallFieldChange_foldl others before s earlier,
    undisturbed_foldl calm before s earlier, recallFieldChange_foldl others after _ later,
    undisturbed_foldl calm after _ later⟩

theorem giveUpAll_turn {s : State} (h : Directory.wf s.dir) {p : Port} {f : Nat}
    (holds : (s.entry f).holders.get p = true) :
    ∃ u, RecallFieldChange (s.entry f) (u.entry f) ∧ Undisturbed f s u ∧
      RecallFieldChange ((u.giveUp f p).entry f) ((s.giveUpAll p).entry f) ∧
      Undisturbed f (u.giveUp f p) (s.giveUpAll p) :=
  foldl_turn (fun t g => othersKept_giveUp t g p) (fun t _ apart => undisturbed_giveUp t p apart)
    ((freeOrder_perm s _).nodup_iff.2 (framesHeld_nodup h p))
    ((freeOrder_perm s _).mem_iff.2 (mem_framesHeld holds)) s.nextDraw

theorem withdrawAll_turn {s : State} (h : Directory.wf s.dir) {p : Port} {f : Nat}
    (waits : waitsIn (s.entry f).queue p = true) :
    ∃ u, RecallFieldChange (s.entry f) (u.entry f) ∧ Undisturbed f s u ∧
      RecallFieldChange ((u.withdraw f p).entry f) ((s.withdrawAll p).entry f) ∧
      Undisturbed f (u.withdraw f p) (s.withdrawAll p) :=
  foldl_turn (fun t g => othersKept_withdraw t g p) (fun t _ apart => undisturbed_withdraw t p apart)
    ((freeOrder_perm s _).nodup_iff.2 (framesWaited_nodup h p))
    ((freeOrder_perm s _).mem_iff.2 (mem_framesWaited waits)) s.nextDraw

/-- A frame on which the port does not wait, which needs no recall and has none, is not touched by the withdrawal
of the port's claims. -/
theorem withdrawAll_undisturbed {s : State} (h : Directory.wf s.dir) {p : Port} {f : Nat}
    (free : waitsIn (s.entry f).queue p = false) : Undisturbed f s (s.withdrawAll p) := by
  refine undisturbed_foldl (fun t _ apart => undisturbed_withdraw t p apart) _ s.nextDraw fun listed => ?_
  have waits := waitsIn_of_framesWaited h ((freeOrder_perm s _).mem_iff.1 listed)
  rw [free] at waits
  cases waits

theorem giveUpAll_entry {s : State} (h : Directory.wf s.dir) {p : Port} {f : Nat}
    (free : (s.entry f).holders.get p = false) :
    RecallFieldChange (s.entry f) ((s.giveUpAll p).entry f) := by
  refine recallFieldChange_foldl (fun t g => othersKept_giveUp t g p) _ s.nextDraw fun listed => ?_
  have holds := holds_of_framesHeld h ((freeOrder_perm s _).mem_iff.1 listed)
  rw [free] at holds
  cases holds

/-! ### A frame held PRIVATE -/

/-- On a PRIVATE frame advancement is about the recall alone (R34). -/
theorem advance_priv_entry {s : State} {f : Nat} (forced : Bool) (priv : (s.entry f).state = .priv) :
    RecallFieldChange (s.entry f) ((s.advance forced f).entry f) := by
  unfold State.advance
  cases hq : (s.entry f).queue with
  | nil => rfl
  | cons w t =>
    rw [List.length_cons, State.advanceFuel]
    simp only [hq, priv]
    exact ensureRecall_entry s f f

theorem withdraw_priv_entry {s : State} {f : Nat} {p : Port} (priv : (s.entry f).state = .priv) :
    RecallFieldChange { s.entry f with queue := (s.entry f).queue.filter (fun w => w.port != p) }
      ((s.withdraw f p).entry f) := by
  let s1 := (s.putEntry f
    { s.entry f with queue := (s.entry f).queue.filter (fun w => w.port != p) }).returnRecord p
  have dequeued : s1.entry f = { s.entry f with queue := (s.entry f).queue.filter (fun w => w.port != p) } :=
    entry_putEntry_same s f _
  have state : ((s1.dropRecall f).entry f).state = .priv := by
    rw [dropRecall_entry s1 f f]
    exact (congrArg Entry.state dequeued).trans priv
  have after : RecallFieldChange (s1.entry f) ((s.withdraw f p).entry f) := by
    have run : s.withdraw f p =
        if isHead (s.entry f).queue p then (s1.dropRecall f).advance false f else s1 := rfl
    rw [run]
    split
    · exact (dropRecall_entry s1 f f).trans (advance_priv_entry false state)
    · rfl
  rw [dequeued] at after
  exact after

theorem filter_of_not_waiting {q : List WaitRec} {p : Port} (h : waitsIn q p = false) :
    q.filter (fun w => w.port != p) = q :=
  List.filter_eq_self.2 fun w hw => by simpa using (waitsIn_false_iff q p).1 h w hw

/-- A PRIVATE frame loses the port's claim, and its recall may change (R51). -/
theorem withdrawAll_priv_entry {s : State} (h : Directory.wf s.dir) {p : Port} {f : Nat}
    (priv : (s.entry f).state = .priv) :
    RecallFieldChange { s.entry f with queue := (s.entry f).queue.filter (fun w => w.port != p) }
      ((s.withdrawAll p).entry f) := by
  cases waits : waitsIn (s.entry f).queue p with
  | false =>
    rw [filter_of_not_waiting waits]
    exact withdrawAll_entry h waits
  | true =>
    obtain ⟨u, before, -, after, -⟩ := withdrawAll_turn h waits
    have turn := withdraw_priv_entry (s := u) (f := f) (p := p) (by rw [before]; exact priv)
    rw [before] at turn
    exact RecallFieldChange.trans turn after

theorem quarantine_entry (s : State) (f : Nat) (p : Port) :
    (s.quarantine f p).entry f =
      { s.entry f with holders := (s.entry f).holders.set p false, state := .quarantined, pinned := false,
                       recallField := .none } := by
  let e : Entry := { s.entry f with
    holders := (s.entry f).holders.set p false, state := .quarantined, pinned := false }
  have put : (s.putEntry f e).entry f = e := entry_putEntry_same s f e
  have dropped : ((s.putEntry f e).dropRecall f).entry f = { e with recallField := .none } := by
    rw [dropRecall_entry_self (by rw [put]; exact needsRecall_unused rfl), put]
  exact (postSet_entry _ _ _ f).trans dropped

/-- A PRIVATE frame of the reset port is QUARANTINED, empty and without recall (R173). -/
theorem depart_priv_entry {s : State} (h : Directory.wf s.dir) {p : Port} {f : Nat}
    (priv : (s.entry f).state = .priv) (sole : (s.entry f).holders = onePort p) :
    (s.depart p).entry f =
      { state := .quarantined, holders := noPorts, pinned := false,
        queue := (s.entry f).queue.filter (fun w => w.port != p), recallField := .none } := by
  have left := withdrawAll_priv_entry (p := p) h priv
  have holds : ((s.withdrawAll p).entry f).holders.get p = true := by
    rw [left]
    exact sole ▸ onePort_get_same p
  obtain ⟨u, before, -, -, after⟩ := giveUpAll_turn (directory_wf_withdrawAll h p) holds
  have turn : (u.giveUp f p).entry f = { u.entry f with
      holders := (u.entry f).holders.set p false, state := .quarantined, pinned := false,
      recallField := .none } := by
    have state : (u.entry f).state = .priv := by
      rw [before, left]
      exact priv
    rw [State.giveUp, if_pos state]
    exact quarantine_entry u f p
  rw [depart_entry, after (by rw [turn]; exact needsRecall_unused rfl) (by rw [turn]), turn, before, left]
  simp only [sole, onePort_set_false]

/-! ### A frame held SHARED or POISONED -/

theorem setIsEmpty_set_false {ps : PortSet} {p : Port} (h : ps.get p = true) :
    setIsEmpty (ps.set p false) = true ↔ ps = onePort p := by
  rw [setIsEmpty_iff]
  refine ⟨fun none => perPort_ext fun q => ?_, fun sole q => by rw [sole, onePort_set_false, noPorts_get]⟩
  by_cases same : q = p
  · rw [same, h, onePort_get_same]
  · rw [← perPort_get_set_ne ps false same, none q, onePort_get, decide_eq_false same]

theorem recallOf_none {s : State} {f : Nat} (h : (s.entry f).recallField = .none) : s.recallOf f = none := by
  simp [State.recallOf, h]

/-- A holder leaves a frame that has no recall (R40). -/
theorem leave_none {s : State} {f : Nat} {p : Port} (h : (s.entry f).recallField = .none) :
    s.leave f p = (s.putEntry f { s.entry f with holders := (s.entry f).holders.set p false }, false) := by
  have none : (s.putEntry f { s.entry f with holders := (s.entry f).holders.set p false }).recallOf f = none :=
    recallOf_none (by rw [entry_putEntry_same]; exact h)
  simp only [State.leave, State.leaveToRelease, none]

/-- What a frame without waiters becomes once a holder has left it (R41, R43, R44). -/
theorem afterLeaving_of_queue_nil {s : State} {f : Nat} (forced : Bool) (h : (s.entry f).queue = []) :
    s.afterLeaving forced f =
      if inUse (s.entry f).state = true ∧ setIsEmpty (s.entry f).holders = true then
        s.putEntry f { s.entry f with state := .free, pinned := false }
      else s := by
  unfold State.afterLeaving
  dsimp only
  have freed : ((s.putEntry f { s.entry f with state := .free, pinned := false }).entry f).queue = [] := by
    rw [entry_putEntry_same]
    exact h
  by_cases used : inUse (s.entry f).state = true
  · by_cases empty : setIsEmpty (s.entry f).holders = true
    · rw [if_pos used, if_pos empty, if_pos ⟨used, empty⟩, advance_of_queue_nil _ freed]
    · rw [if_pos used, if_neg empty, if_neg (fun both => empty both.2), advance_of_queue_nil _ h]
  · rw [if_neg used, if_neg (fun both => used both.1)]

/-- A holding of a frame that is not PRIVATE, without waiters and recall, is given up (R172, R174). -/
theorem giveUp_entry {s : State} {f : Nat} {p : Port} (apart : (s.entry f).state ≠ .priv)
    (queue : (s.entry f).queue = []) (none : (s.entry f).recallField = .none)
    (holds : (s.entry f).holders.get p = true) :
    (s.giveUp f p).entry f =
      if inUse (s.entry f).state = true ∧ (s.entry f).holders = onePort p then
        { s.entry f with state := .free, holders := noPorts, pinned := false }
      else { s.entry f with holders := (s.entry f).holders.set p false } := by
  let s1 := s.putEntry f { s.entry f with holders := (s.entry f).holders.set p false }
  have left : s1.entry f = { s.entry f with holders := (s.entry f).holders.set p false } :=
    entry_putEntry_same s f _
  have run : s.giveUp f p = s1.afterLeaving false f := by
    rw [State.giveUp, if_neg apart, leave_none none]
  rw [run, afterLeaving_of_queue_nil false (by rw [left]; exact queue), left]
  dsimp only
  by_cases sole : (s.entry f).holders = onePort p
  · by_cases used : inUse (s.entry f).state = true
    · rw [if_pos ⟨used, (setIsEmpty_set_false holds).2 sole⟩, if_pos ⟨used, sole⟩, entry_putEntry_same, sole,
        onePort_set_false]
    · rw [if_neg (fun both => used both.1), if_neg (fun both => used both.1), left]
  · rw [if_neg (fun both => sole ((setIsEmpty_set_false holds).1 both.2)), if_neg (fun both => sole both.2), left]

/-- A frame without waiters and recall that the reset port holds, but not PRIVATE (R172, R174). -/
theorem depart_entry_of_calm {s : State} (h : Directory.wf s.dir) {p : Port} {f : Nat}
    (apart : (s.entry f).state ≠ .priv) (queue : (s.entry f).queue = [])
    (none : (s.entry f).recallField = .none) (holds : (s.entry f).holders.get p = true) :
    (s.depart p).entry f =
      if inUse (s.entry f).state = true ∧ (s.entry f).holders = onePort p then
        { s.entry f with state := .free, holders := noPorts, pinned := false }
      else { s.entry f with holders := (s.entry f).holders.set p false } := by
  have free : waitsIn (s.entry f).queue p = false := by rw [queue]; rfl
  have stays : (s.withdrawAll p).entry f = s.entry f :=
    withdrawAll_undisturbed h free (needsRecall_empty queue) none
  obtain ⟨u, -, before, -, after⟩ := giveUpAll_turn (directory_wf_withdrawAll h p) (f := f) (p := p)
    (by rw [stays]; exact holds)
  have same : u.entry f = s.entry f := by
    refine (before ?_ ?_).trans stays
    · rw [stays]
      exact needsRecall_empty queue
    · rw [stays]
      exact none
  have turn := giveUp_entry (s := u) (f := f) (p := p) (by rw [same]; exact apart) (by rw [same]; exact queue)
    (by rw [same]; exact none) (by rw [same]; exact holds)
  rw [same] at turn
  rw [depart_entry, after ?_ ?_, turn]
  · rw [turn]
    split
    · exact needsRecall_empty queue
    · exact needsRecall_empty queue
  · rw [turn]
    split
    · exact none
    · exact none

/-! ### The records of a quarantine -/

/-- An entry replaced by one with the same holders leaves the port units alone. -/
theorem putEntry_unit_same {s : State} {f : Nat} {e : Entry} {q : Port}
    (h : e.holders.get q = (s.entry f).holders.get q) : (s.putEntry f e).unit q = s.unit q := by
  rw [putEntry_unit, h, countChange_same]

theorem dropRecall_none {s : State} {f : Nat} (h : (s.entry f).recallField = .none) : s.dropRecall f = s := by
  simp [State.dropRecall, h]

theorem dropRecall_deferred {s : State} {f : Nat} (h : (s.entry f).recallField = .deferred) :
    s.dropRecall f = ({ s with deferred := s.deferred.filter (fun d => d.frame != f) } : State).putEntry f
      { s.entry f with recallField := .none } := by
  simp [State.dropRecall, h]

theorem dropRecall_active {s : State} {f : Nat} {i : Fin 8} (h : (s.entry f).recallField = .active i) :
    s.dropRecall f = State.feedDeferred i s.deferred
      (({ s with recalls := s.recalls.set i none } : State).putEntry f { s.entry f with recallField := .none }) := by
  simp only [State.dropRecall, h]
  rfl

theorem feedDeferred_of_nil {i : Fin 8} {l : List Deferred} {s : State} (none : l = []) (empty : s.deferred = []) :
    State.feedDeferred i l s = s := by
  obtain ⟨⟩ := s
  cases none
  cases empty
  rfl

/-- With no frame deferred the freed record serves no other (R58). -/
theorem dropRecall_active_nil {s : State} {f : Nat} {i : Fin 8} (h : (s.entry f).recallField = .active i)
    (empty : s.deferred = []) :
    s.dropRecall f = ({ s with recalls := s.recalls.set i none } : State).putEntry f
      { s.entry f with recallField := .none } := by
  rw [dropRecall_active h]
  exact feedDeferred_of_nil empty empty

/-- With no frame deferred, removing a recall queues no record (R66). -/
theorem dropRecall_unit {s : State} (f : Nat) (empty : s.deferred = []) (q : Port) :
    (s.dropRecall f).unit q = s.unit q := by
  cases h : (s.entry f).recallField with
  | none => rw [dropRecall_none h]
  | deferred =>
    rw [dropRecall_deferred h]
    exact putEntry_unit_same (s := { s with deferred := _ }) rfl
  | active i =>
    rw [dropRecall_active_nil h empty]
    exact putEntry_unit_same (s := { s with recalls := _ }) rfl

theorem postList_unit {l : List Port} (once : l.Nodup) (s : State) (r : EventRecord) (q : Port) :
    (s.postList l r).unit q = if q ∈ l then postUnit (s.unit q) r else s.unit q := by
  induction l generalizing s with
  | nil => rfl
  | cons p rest ih =>
    obtain ⟨apart, once⟩ := List.nodup_cons.1 once
    have run : s.postList (p :: rest) r = (s.post p r).postList rest r := rfl
    rw [run, ih once, post_unit]
    by_cases same : q = p
    · subst same
      simp [apart]
    · simp [same]

/-- Each port of the set gets the record once, and no other port anything. -/
theorem postSet_unit (s : State) (ps : PortSet) (r : EventRecord) (q : Port) :
    (s.postSet ps r).unit q = if ps.get q = true then postUnit (s.unit q) r else s.unit q := by
  rw [State.postSet, postList_unit (members_nodup ps)]
  simp only [mem_members]

theorem foldl_waiters_get (q : List WaitRec) (ps : PortSet) (p : Port) :
    (q.foldl (fun ps w => ps.set w.port true) ps).get p = (ps.get p || waitsIn q p) := by
  induction q generalizing ps with
  | nil => simp [waitsIn]
  | cons w t ih =>
    rw [List.foldl_cons, ih, perPort_get_set]
    by_cases same : p = w.port
    · subst same
      simp [waitsIn]
    · have other : (w.port == p) = false := by simpa using Ne.symm same
      simp [waitsIn, same, other]

theorem quarantineTold_get (s : State) {p q : Port} (apart : q ≠ p) (l : List WaitRec) :
    (quarantineTold s p l).get q = true ↔ s.token = some q ∨ waitsIn l q = true := by
  unfold quarantineTold
  cases token : s.token with
  | none => simp [perPort_get_set_ne _ _ apart, foldl_waiters_get]
  | some h =>
    simp only [perPort_get_set_ne _ _ apart, perPort_get_set, foldl_waiters_get, noPorts_get, Bool.false_or]
    by_cases same : q = h
    · simp [same]
    · simp [same, Ne.symm same]

theorem quarantine_unit {s : State} {f : Nat} {p q : Port} (empty : s.deferred = []) (apart : q ≠ p) :
    (s.quarantine f p).unit q =
      if s.token = some q ∨ waitsIn (s.entry f).queue q = true then postUnit (s.unit q) (.quarantined f p)
      else s.unit q := by
  let e : Entry := { s.entry f with
    holders := (s.entry f).holders.set p false, state := .quarantined, pinned := false }
  have before : ((s.putEntry f e).dropRecall f).unit q = s.unit q :=
    (dropRecall_unit (s := s.putEntry f e) f empty q).trans
      (putEntry_unit_same (s := s) (e := e) (perPort_get_set_ne _ _ apart))
  have told : (s.quarantine f p).unit q = if (quarantineTold s p (s.entry f).queue).get q = true then
      postUnit (((s.putEntry f e).dropRecall f).unit q) (.quarantined f p)
    else ((s.putEntry f e).dropRecall f).unit q := postSet_unit _ _ _ _
  rw [told, before]
  simp only [quarantineTold_get s apart]

/-! ### What a port reset leaves of the rest -/

theorem directoryChange_giveUpAll (s : State) (p : Port) : DirectoryChange s.nextDraw (s.giveUpAll p) := by
  have folded : ∀ (l : List Nat) (t : State), DirectoryChange t (l.foldl (fun t f => t.giveUp f p) t) := by
    intro l
    induction l with
    | nil => exact fun t => DirectoryChange.refl t
    | cons f rest ih => exact fun t => (directoryChange_giveUp t f p).trans (ih _)
  exact folded _ s.nextDraw

/-- Past the claims and the holdings a port reset changes no other unit. -/
theorem depart_unit_other (s : State) {p q : Port} (apart : q ≠ p) :
    (s.depart p).unit q = ((s.withdrawAll p).giveUpAll p).unit q := by
  rw [depart_eq, resetUnit_unit, if_neg apart]
  exact (discardAnswer_unit _ p q).trans (freeTokenOf_unit _ p q)

theorem withdrawAll_of_waits_nowhere {s : State} {p : Port} (h : Directory.wf s.dir)
    (free : ∀ f, waitsIn (s.entry f).queue p = false) : s.withdrawAll p = s.nextDraw := by
  have none : s.framesWaited p = [] := List.eq_nil_iff_forall_not_mem.2 fun f hf => by
    have waits := waitsIn_of_framesWaited h hf
    rw [free f] at waits
    cases waits
  rw [State.withdrawAll, none]
  rfl

theorem eq_singleton_of_nodup {α : Type} {l : List α} {f : α} (once : l.Nodup) (hf : f ∈ l) (only : ∀ g ∈ l, g = f) :
    l = [f] := by
  have same := List.eq_replicate_of_mem only
  rw [same, List.nodup_replicate] at once
  rw [same] at hf
  have some : l.length ≠ 0 := (List.mem_replicate.1 hf).1
  rw [same, Nat.le_antisymm once (Nat.one_le_iff_ne_zero.2 some)]
  rfl

theorem giveUpAll_of_one {s : State} {p : Port} {f : Nat} (h : Directory.wf s.dir)
    (holds : (s.entry f).holders.get p = true) (others : ∀ g, g ≠ f → (s.entry g).holders.get p = false) :
    s.giveUpAll p = s.nextDraw.giveUp f p := by
  have only : s.framesHeld p = [f] := by
    refine eq_singleton_of_nodup (framesHeld_nodup h p) (mem_framesHeld holds) fun g hg => ?_
    by_contra apart
    have held := holds_of_framesHeld h hg
    rw [others g apart] at held
    cases held
  have order : s.freeOrder [f] = [f] := List.perm_singleton.1 (freeOrder_perm s [f])
  rw [State.giveUpAll, only, order]
  rfl

/-- Where a PRIVATE frame is the port's one frame and none is deferred, the waiters and the token's holder get one
QUARANTINED record, and no other port anything (R160, R173). -/
theorem depart_told {s : State} (h : Directory.wf s.dir) {p : Port} {f : Nat}
    (priv : (s.entry f).state = .priv) (holds : (s.entry f).holders.get p = true) (empty : s.deferred = [])
    (others : ∀ g, g ≠ f → (s.entry g).holders.get p = false ∧ waitsIn (s.entry g).queue p = false)
    (free : waitsIn (s.entry f).queue p = false) {q : Port} (apart : q ≠ p) :
    (s.depart p).unit q =
      if s.token = some q ∨ waitsIn (s.entry f).queue q = true then postUnit (s.unit q) (.quarantined f p)
      else s.unit q := by
  have waitsNowhere : ∀ g, waitsIn (s.entry g).queue p = false := fun g => by
    by_cases same : g = f
    · rw [same]; exact free
    · exact (others g same).2
  have run : (s.withdrawAll p).giveUpAll p = s.nextDraw.nextDraw.quarantine f p := by
    rw [withdrawAll_of_waits_nowhere h waitsNowhere,
      giveUpAll_of_one (s := s.nextDraw) h holds (fun g other => (others g other).1), State.giveUp]
    exact if_pos priv
  rw [depart_unit_other s apart, run]
  exact quarantine_unit (s := s.nextDraw.nextDraw) empty apart

/-- The state of a port reset before the request in service and the unit are seen to. -/
def State.departing (s : State) (p : Port) : State :=
  (((s.withdrawAll p).giveUpAll p).freeTokenOf p).dropNotify p

theorem depart_departing (s : State) (p : Port) :
    s.depart p = ((State.departing s p).discardAnswer p).resetUnit p := rfl

theorem freeTokenOf_rest (s : State) (p : Port) :
    s.freeTokenOf p = { s with token := (s.freeTokenOf p).token } := by
  unfold State.freeTokenOf
  split <;> rfl

theorem departing_rest (s : State) (p : Port) :
    (State.departing s p).memPort = s.memPort ∧ (State.departing s p).arbiter = s.arbiter ∧
      (State.departing s p).scrubQueue = (s.dropNotify p).scrubQueue := by
  have left := (directoryChange_withdrawAll s p).1
  have given := (directoryChange_giveUpAll (s.withdrawAll p) p).1
  have memPort : ((s.withdrawAll p).giveUpAll p).memPort = s.memPort := by rw [given, left]; rfl
  have arbiter : ((s.withdrawAll p).giveUpAll p).arbiter = s.arbiter := by rw [given, left]; rfl
  have queue : ((s.withdrawAll p).giveUpAll p).scrubQueue = s.scrubQueue := by rw [given, left]; rfl
  refine ⟨?_, ?_, ?_⟩
  · rw [State.departing, freeTokenOf_rest]
    exact memPort
  · rw [State.departing, freeTokenOf_rest]
    exact arbiter
  · simp only [State.departing, State.dropNotify]
    rw [freeTokenOf_rest]
    simp only [queue]

theorem depart_memPort (s : State) (p : Port) :
    (∀ r d, s.memPort = .serving (.window r d) → r.port = p →
      (s.depart p).memPort = .serving (.window r true)) ∧
    (s.inService p = false → (s.depart p).memPort = s.memPort) := by
  have same := (departing_rest s p).1
  have run : (s.depart p).memPort = ((State.departing s p).discardAnswer p).memPort := rfl
  rw [run]
  refine ⟨fun r d port its => ?_, fun free => ?_⟩
  · rw [← same] at port
    simp [State.discardAnswer, port, its]
  · unfold State.discardAnswer
    split
    next r d port =>
      rw [same] at port
      have other : r.port ≠ p := by simpa [State.inService, port] using free
      rw [if_neg other]
      exact port.symm
    next => exact same

theorem depart_rest (s : State) (p : Port) :
    (s.depart p).arbiter = s.arbiter ∧ (s.depart p).scrubQueue = (s.dropNotify p).scrubQueue := by
  obtain ⟨-, arbiter, queue⟩ := departing_rest s p
  refine ⟨?_, ?_⟩
  · rw [depart_departing, State.resetUnit, setUnit_arbiter, discardAnswer_eq]
    exact arbiter
  · rw [depart_departing, State.resetUnit, setUnit_scrubQueue, discardAnswer_eq]
    exact queue

theorem dropNotify_frames (s : State) (p : Port) :
    (s.dropNotify p).scrubQueue.map ScrubEntry.frame = s.scrubQueue.map ScrubEntry.frame := by
  simp only [State.dropNotify, List.map_map]
  refine List.map_congr_left fun d _ => ?_
  simp only [Function.comp]
  split <;> rfl

theorem depart_entry_other {s : State} (h : Directory.wf s.dir) {p : Port} {f : Nat}
    (unheld : (s.entry f).holders.get p = false) (free : waitsIn (s.entry f).queue p = false) :
    RecallFieldChange (s.entry f) ((s.depart p).entry f) := by
  have left := withdrawAll_entry h free
  rw [depart_entry]
  refine left.trans (giveUpAll_entry (directory_wf_withdrawAll h p) ?_)
  rw [left]
  exact unheld

/-- A PRIVATE frame has one holder (R13). -/
theorem sole_of_priv {e : Entry} {p : Port} (sound : EntrySound e) (priv : e.state = .priv)
    (holds : e.holders.get p = true) : e.holders = onePort p := by
  obtain ⟨holders, -, -⟩ := sound
  rw [priv] at holders
  obtain ⟨q, only⟩ := holders
  rw [only, onePort_get] at holds
  rw [only, of_decide_eq_true holds]

/-- Settles O30: the claims first, then the holdings frame by frame, of which each has its turn once; a frame that
needs no recall and has none is untouched by the others' turns. -/
theorem portResetDeparts : Obligations.PortResetDeparts := by
  refine ⟨fun p s run wf sound => ⟨s.depart p, if_neg (by simp [run]), depart_unit s p, depart_token s p,
    depart_absent s p, ?_, ?_, ?_, ?_, ?_, (depart_memPort s p).1, (depart_memPort s p).2, ?_, ?_,
    depart_memory s p, (depart_rest s p).1, ?_⟩, fun p s run => if_pos run, fun p s => rfl⟩
  · exact fun f priv holds => depart_priv_entry wf priv (sole_of_priv (sound.1 f) priv holds)
  · exact fun f priv holds empty others free q apart => depart_told wf priv holds empty others free apart
  · intro f shared holds queue none
    have used : inUse (s.entry f).state = true := by rw [shared]; rfl
    rw [depart_entry_of_calm wf (by simp [shared]) queue none holds]
    simp only [used, true_and]
  · intro f poisoned holds none
    have queue : (s.entry f).queue = [] := (sound.1 f).2.2 (.inr (.inl poisoned))
    have unused : inUse (s.entry f).state = false := by rw [poisoned]; rfl
    rw [depart_entry_of_calm wf (by simp [poisoned]) queue none holds]
    simp only [unused, Bool.false_eq_true, false_and, if_false]
  · exact fun f unheld free => depart_entry_other wf unheld free
  · intro d hd
    rw [(depart_rest s p).2] at hd
    exact dropNotify_notify hd
  · rw [(depart_rest s p).2, dropNotify_frames]
  · intro q apart
    rw [depart_unit_other s apart]
    exact (withdrawAll_unit s p q).trans ((directoryChange_giveUpAll (s.withdrawAll p) p).2 q)

end Sys2Proof.Proofs
end

section
/-! PROOFS. Window accesses: their checks at arrival (O53) and at the memory grant (O54). -/

namespace Sys2Proof.Proofs
set_option Elab.async false

open Sys2Proof.Machine Sys2Proof.Safety Sys2Proof.Laws

/-! ### Arrival -/

theorem alignedAddr_eq (addr : BitVec 21) : alignedAddr addr = addr.toNat - addr.toNat % 4 := by
  unfold alignedAddr
  omega

theorem pageOf_eq (addr : BitVec 21) : pageOf addr = addr.toNat / 2048 := by
  unfold pageOf alignedAddr
  omega

theorem offsetOf_eq (addr : BitVec 21) : offsetOf addr = addr.toNat % 2048 / 4 := by
  unfold offsetOf alignedAddr
  omega

/-- A post leaves a waiting request and the answer alone, and does not depend on them. -/
theorem postUnit_request_answer (u : PortUnit) (r : EventRecord) (x : Option Request) (y : Option BusAnswer) :
    postUnit { u with request := x, answer := y } r = { postUnit u r with request := x, answer := y } := by
  unfold postUnit
  dsimp only
  split
  · split <;> rfl
  · rfl

/-- A fault's record is queued and its access answered with an error response (R89, R99). -/
theorem post_answerBus (s : State) (p : Port) (r : EventRecord) (error : Bool) (data : List Word) :
    (s.post p r).answerBus p error data =
      s.setUnit p { postUnit (s.unit p) r with answer := some ⟨error, data⟩ } := by
  simp [State.answerBus, State.post]

section Arrival

variable {p : Port} {a : Access} {addr : BitVec 21} {burst : Nat} {en : BitVec 4} {data : List Word} {s : State}
  (window : addr.toNat < 0x100000) (h1 : 1 ≤ burst) (h8 : burst ≤ 8)
  (fits : data.length = (match a with | .read => 0 | .write => burst)) (served : s.busServed p = true)
include window h1 h8 fits served

theorem windowAccess_taken : ((Instr.windowAccess p a addr burst en data).wellFormed && s.busServed p) = true := by
  have inside : inWindow addr = true := by simpa [inWindow] using window
  cases a <;> simp_all [Instr.wellFormed, burstInRange]

theorem exec_windowAccess_offline (off : (s.unit p).online = false) :
    exec (.windowAccess p a addr burst en data) s =
      .next (s.setUnit p { s.unit p with answer := some ⟨true, []⟩ }) := by
  show execWindowAccess p a addr burst en data s = _
  rw [execWindowAccess, if_pos (windowAccess_taken window h1 h8 fits served)]
  exact if_pos off

theorem exec_windowAccess_fault {cause : FaultCause} (on : (s.unit p).online = true)
    (check : arrivalCheck (s.unit p) a addr burst = .inl cause) :
    exec (.windowAccess p a addr burst en data) s =
      .next (s.setUnit p { postUnit (s.unit p)
        (.fault (addr.toNat - addr.toNat % 4) (s.unit p).context a burst cause) with
        answer := some ⟨true, []⟩ }) := by
  show execWindowAccess p a addr burst en data s = _
  rw [execWindowAccess, if_pos (windowAccess_taken window h1 h8 fits served)]
  simp only [on, Bool.true_eq_false, if_false, check, post_answerBus, alignedAddr_eq]

theorem exec_windowAccess_passed {m : MapEntry} (on : (s.unit p).online = true)
    (check : arrivalCheck (s.unit p) a addr burst = .inr m) :
    exec (.windowAccess p a addr burst en data) s =
      .next (if s.inService p then
          s.setUnit p { s.unit p with
            held := some (requestOf p (s.unit p) m a addr burst en data), answer := none }
        else (s.setUnit p { s.unit p with
            request := some (requestOf p (s.unit p) m a addr burst en data), answer := none }).posted) := by
  show execWindowAccess p a addr burst en data s = _
  rw [execWindowAccess, if_pos (windowAccess_taken window h1 h8 fits served)]
  simp only [on, Bool.true_eq_false, if_false, check]
  split <;> rfl

end Arrival

section Checks

variable {u : PortUnit} {a : Access} {addr : BitVec 21} {burst : Nat}

theorem arrivalCheck_boundary (past : 512 < addr.toNat % 2048 / 4 + burst) :
    arrivalCheck u a addr burst = .inl .boundary := by
  rw [arrivalCheck, offsetOf_eq, if_pos past]

theorem arrivalCheck_unmapped (inside : addr.toNat % 2048 / 4 + burst ≤ 512)
    (none : Sparse.find? (u.mapOf u.context) (addr.toNat / 2048) = none) :
    arrivalCheck u a addr burst = .inl .unmapped := by
  rw [arrivalCheck, offsetOf_eq, pageOf_eq, if_neg (Nat.not_lt.2 inside), none]

theorem arrivalCheck_mapped {m : MapEntry} (inside : addr.toNat % 2048 / 4 + burst ≤ 512)
    (found : Sparse.find? (u.mapOf u.context) (addr.toNat / 2048) = some m) :
    arrivalCheck u a addr burst =
      if a = .write ∧ m.write = false then .inl .writeProtect else .inr m := by
  rw [arrivalCheck, offsetOf_eq, pageOf_eq, if_neg (Nat.not_lt.2 inside), found]

end Checks

/-- Settles O53. -/
theorem windowAccessFaultsAtArrival : Obligations.WindowAccessFaultsAtArrival := by
  intro p a addr burst en data s window h1 h8 fits served
  refine ⟨fun off => exec_windowAccess_offline window h1 h8 fits served off,
    fun on past => exec_windowAccess_fault window h1 h8 fits served on (arrivalCheck_boundary past),
    fun on inside none => exec_windowAccess_fault window h1 h8 fits served on (arrivalCheck_unmapped inside none),
    fun m on inside found write protect => exec_windowAccess_fault window h1 h8 fits served on ?_⟩
  rw [arrivalCheck_mapped inside found, if_pos ⟨write, protect⟩]

/-! ### The memory grant -/

/-- A port's request alone waits and no refresh is due: it is granted, and if it ends within its grant the memory
port is IDLE again (R102, R103). -/
theorem arbitrate_window {s : State} {p : Port} {r : Request} (request : (s.unit p).request = some r)
    (others : ∀ q, q ≠ p → (s.unit q).request = none) (scrub : s.scrubRequest = none)
    (due : s.refreshDue = false) :
    s.arbitrate =
      if ((s.takeWaiting (.port p)).serveWindow r).2 = true then
        { ((s.takeWaiting (.port p)).serveWindow r).1 with memPort := .idle }
      else ((s.takeWaiting (.port p)).serveWindow r).1 := by
  have waits : s.waitingOf (.port p) = some (.window r false) := by simp [State.waitingOf, request]
  have alone : ∀ y, y ≠ .port p → s.waitingOf y = none := fun y apart => by
    cases y with
    | scrub => simp [State.waitingOf, scrub]
    | port q => simp [State.waitingOf, others q (fun same => apart (by rw [same]))]
  rw [State.arbitrate, State.arbitrateFuel, choice_of_only waits alone]
  dsimp only
  split
  next ends =>
    obtain ⟨kept, scrubKept⟩ := portKept_serveWindow ends
    have notDue : ((s.takeWaiting (.port p)).serveWindow r).1.refreshDue = false := by
      rw [kept.refreshDue, takeWaiting_refreshDue, due]
    have nothing : ∀ y, ((s.takeWaiting (.port p)).serveWindow r).1.waitingOf y = none := fun y => by
      have same : ((s.takeWaiting (.port p)).serveWindow r).1.waitingOf y =
          (s.takeWaiting (.port p)).waitingOf y := by
        cases y <;> simp [State.waitingOf, kept.request, scrubKept]
      rw [same, takeWaiting_waitingOf]
      split
      · rfl
      next apart => exact alone y apart
    rw [if_neg (by simp [notDue]), State.arbitrateFuel, choice_eq_none.2 nothing]
  next => rfl

/-- The part with a port's request granted: the pointer has passed the port, whose unit is as given (R102). -/
def atGrant (s : State) (p : Port) (u : PortUnit) : State :=
  { s.setUnit p u with arbiter := ringNext (.port p) }

theorem atGrant_unit (s : State) (p : Port) (u : PortUnit) : (atGrant s p u).unit p = u :=
  setUnit_unit_same s p u

theorem atGrant_setUnit (s : State) (p : Port) (u v : PortUnit) :
    (atGrant s p u).setUnit p v = atGrant s p v := by
  simp only [atGrant, State.setUnit, perPort_set_set_same]

theorem atGrant_mapEntry (s : State) (p : Port) {u : PortUnit} (map0 : u.map0 = (s.unit p).map0)
    (map1 : u.map1 = (s.unit p).map1) (q : Port) (c : Context) (g : Nat) :
    (atGrant s p u).mapEntry q c g = s.mapEntry q c g := by
  have units : (atGrant s p u).unit q = if q = p then u else s.unit q := setUnit_unit s p q u
  have maps : u.mapOf c = (s.unit p).mapOf c := by cases c <;> assumption
  rw [State.mapEntry, State.mapEntry, units]
  split
  next same => rw [same, maps]
  next => rfl

/-- A port's unit while its request is granted: nothing waits, and its access has not been answered. -/
def grantedUnit (u : PortUnit) : PortUnit := { u with request := none, answer := none }

/-- A request posted to an IDLE memory port with nothing to do is granted at once (R103). -/
theorem posted_window {s : State} {p : Port} {r : Request} (free : s.memPort = .idle) (idle : IdleHasNoWork s) :
    (s.setUnit p { s.unit p with request := some r, answer := none }).posted =
      if ((atGrant s p (grantedUnit (s.unit p))).serveWindow r).2 = true then
        { ((atGrant s p (grantedUnit (s.unit p))).serveWindow r).1 with memPort := .idle }
      else ((atGrant s p (grantedUnit (s.unit p))).serveWindow r).1 := by
  obtain ⟨scrub, due, requests⟩ := idle free
  let s2 := s.setUnit p { s.unit p with request := some r, answer := none }
  have taken : s2.takeWaiting (.port p) = atGrant s p (grantedUnit (s.unit p)) := by
    simp [s2, State.takeWaiting, atGrant, grantedUnit]
  have chooses : s2.posted = s2.arbitrate := if_pos free
  rw [chooses, arbitrate_window (s := s2) (p := p) (r := r) (by simp [s2])
    (fun q apart => by rw [setUnit_unit_ne _ _ apart]; exact requests q) scrub due, taken]

section Grant

variable {s : State} {p : Port} {r : Request} {m : MapEntry} (own : r.port = p)
  (found : s.mapEntry p r.context r.page = some m) (named : m.frame = r.frame)
include own found

theorem grant_mapEntry : (atGrant s p (grantedUnit (s.unit p))).mapEntry r.port r.context r.page = some m := by
  rw [own, atGrant_mapEntry (u := grantedUnit (s.unit p)) s p rfl rfl]
  exact found

include named

theorem repair_stale : (atGrant s p (grantedUnit (s.unit p))).repair r .stale =
    (atGrant s p (grantedUnit (s.unit p))).clearMap p r.context r.page := by
  subst own
  simp only [State.repair, grant_mapEntry rfl found, if_pos named]

theorem repair_writeShared : (atGrant s p (grantedUnit (s.unit p))).repair r .writeShared =
    (atGrant s p (grantedUnit (s.unit p))).writeMap p r.context r.page { m with write := false } := by
  subst own
  simp only [State.repair, grant_mapEntry rfl found, if_pos named]

theorem repair_poisoned : (atGrant s p (grantedUnit (s.unit p))).repair r .poisoned =
    atGrant s p (grantedUnit (s.unit p)) := by
  subst own
  simp only [State.repair, grant_mapEntry rfl found, if_pos named]

end Grant

/-- The part after a fault at the grant, its entry repaired in the port's maps (R93, R94, R105). -/
theorem fault_atGrant {s : State} {p : Port} (v : PortUnit) (r : EventRecord) :
    ((atGrant s p v).post p r).answerBus p true [] =
      atGrant s p { postUnit v r with answer := some ⟨true, []⟩ } := by
  rw [post_answerBus, atGrant_unit, atGrant_setUnit]

/-- How a granted access that faults leaves the part (R105): the memory port IDLE, the port's unit with its maps as
repaired, one FAULT record and an error response. -/
def faultedPart (s : State) (p : Port) (maps : PortUnit) (r : EventRecord) : State :=
  { s.setUnit p { { postUnit { s.unit p with map0 := maps.map0, map1 := maps.map1 } r with
      answer := some ⟨true, []⟩ } with request := none } with
    memPort := .idle, arbiter := ringNext (.port p) }

theorem atGrant_faulted (s : State) (p : Port) (maps : PortUnit) (r : EventRecord) :
    ({ atGrant s p { postUnit { grantedUnit (s.unit p) with map0 := maps.map0, map1 := maps.map1 } r with
        answer := some ⟨true, []⟩ } with memPort := .idle } : State) = faultedPart s p maps r := by
  have same := postUnit_request_answer { s.unit p with map0 := maps.map0, map1 := maps.map1 } r none none
  have units : ({ postUnit { grantedUnit (s.unit p) with map0 := maps.map0, map1 := maps.map1 } r with
      answer := some ⟨true, []⟩ } : PortUnit) =
      { { postUnit { s.unit p with map0 := maps.map0, map1 := maps.map1 } r with answer := some ⟨true, []⟩ } with
        request := none } := congrArg (fun u : PortUnit => { u with answer := some ⟨true, []⟩ }) same
  rw [units]
  rfl

theorem faultedPart_mapEntry (s : State) (p : Port) (maps : PortUnit) (r : EventRecord) (q : Port) (c : Context)
    (g : Nat) :
    (faultedPart s p maps r).mapEntry q c g =
      if q = p then Sparse.find? (maps.mapOf c) g else s.mapEntry q c g := by
  have units : (faultedPart s p maps r).unit q = if q = p then _ else s.unit q := setUnit_unit s p q _
  rw [State.mapEntry, units]
  split
  · rw [postUnit_touches]
    cases c <;> rfl
  · rfl

/-- A granted access that faults, with one of its port's maps repaired. -/
theorem fault_repaired {s : State} {p : Port} {c : Context} {m : MapTable} (r : EventRecord) :
    ({ (((atGrant s p (grantedUnit (s.unit p))).setUnit p ((grantedUnit (s.unit p)).setMap c m)).post p r).answerBus
        p true [] with memPort := .idle } : State) = faultedPart s p ((s.unit p).setMap c m) r := by
  have maps : (grantedUnit (s.unit p)).setMap c m =
      { grantedUnit (s.unit p) with
        map0 := ((s.unit p).setMap c m).map0, map1 := ((s.unit p).setMap c m).map1 } := by
    cases c <;> rfl
  rw [atGrant_setUnit, fault_atGrant, maps, atGrant_faulted]

theorem grantedUnit_mapOf (u : PortUnit) (c : Context) : (grantedUnit u).mapOf c = u.mapOf c := by
  cases c <;> rfl

section Outcomes

variable {s : State} {p : Port} {r : Request} {m : MapEntry} (own : r.port = p)
  (found : s.mapEntry p r.context r.page = some m) (named : m.frame = r.frame)
  (free : s.memPort = .idle) (idle : IdleHasNoWork s)

/-- The directory decides on a granted request as on one that has not been posted yet. -/
theorem grantFault_atGrant (r : Request) (u : PortUnit) : (atGrant s p u).grantFault r = s.grantFault r := rfl

include own found named free idle

theorem granted_poisoned (fault : s.grantFault r = some .poisoned) :
    (s.setUnit p { s.unit p with request := some r, answer := none }).posted =
      faultedPart s p (s.unit p) (.fault r.addr r.context r.access r.burst .poisoned) := by
  rw [posted_window free idle, serveWindow_fault ((grantFault_atGrant r _).trans fault), if_pos rfl,
    repair_poisoned own found named, own, fault_atGrant]
  exact atGrant_faulted s p (s.unit p) _

theorem granted_stale (fault : s.grantFault r = some .stale) :
    (s.setUnit p { s.unit p with request := some r, answer := none }).posted =
      faultedPart s p ((s.unit p).setMap r.context (Sparse.erase ((s.unit p).mapOf r.context) r.page))
        (.fault r.addr r.context r.access r.burst .stale) := by
  rw [posted_window free idle, serveWindow_fault ((grantFault_atGrant r _).trans fault), if_pos rfl,
    repair_stale own found named, own, State.clearMap, atGrant_unit, grantedUnit_mapOf]
  exact fault_repaired _

theorem granted_writeShared (fault : s.grantFault r = some .writeShared) :
    (s.setUnit p { s.unit p with request := some r, answer := none }).posted =
      faultedPart s p ((s.unit p).setMap r.context
        (Sparse.put ((s.unit p).mapOf r.context) r.page { m with write := false }))
        (.fault r.addr r.context r.access r.burst .writeShared) := by
  rw [posted_window free idle, serveWindow_fault ((grantFault_atGrant r _).trans fault), if_pos rfl,
    repair_writeShared own found named, own, State.writeMap, atGrant_unit, grantedUnit_mapOf]
  exact fault_repaired _

omit own found named

theorem granted_served (fault : s.grantFault r = none) (bytes : ¬(r.access = .write ∧ r.enables = 0)) :
    (s.setUnit p { s.unit p with request := some r, answer := none }).posted =
      { s.setUnit p { s.unit p with request := none, answer := none } with
        memPort := .serving (.window r false), arbiter := ringNext (.port p) } := by
  rw [posted_window free idle, serveWindow_admitted ((grantFault_atGrant r _).trans fault) bytes,
    if_neg Bool.false_ne_true]
  rfl

include own

theorem granted_noByte (fault : s.grantFault r = none) (noByte : r.access = .write ∧ r.enables = 0) :
    (s.setUnit p { s.unit p with request := some r, answer := none }).posted =
      { s.setUnit p { s.unit p with request := none, answer := some ⟨false, []⟩ } with
        memPort := .idle, arbiter := ringNext (.port p) } := by
  rw [posted_window free idle, serveWindow_noByte ((grantFault_atGrant r _).trans fault) noByte, if_pos rfl, own,
    State.answerBus, atGrant_unit, atGrant_setUnit]
  rfl

end Outcomes

/-- What the check of R92 says of a frame, case by case. -/
theorem grantFault_poisoned {s : State} {r : Request} (h : (s.entry r.frame).state = .poisoned) :
    s.grantFault r = some .poisoned := if_pos h

theorem grantFault_stale {s : State} {r : Request} (sound : (s.entry r.frame).state ≠ .poisoned)
    (h : (s.entry r.frame).holders.get r.port = false) : s.grantFault r = some .stale :=
  (if_neg sound).trans (if_pos h)

theorem grantFault_writeShared {s : State} {r : Request} (sound : (s.entry r.frame).state ≠ .poisoned)
    (holds : (s.entry r.frame).holders.get r.port = true) (write : r.access = .write)
    (h : (s.entry r.frame).state ≠ .priv) : s.grantFault r = some .writeShared :=
  (if_neg sound).trans ((if_neg (by simp [holds])).trans (if_pos ⟨write, h⟩))

/-- Settles O54: the request alone waits, so the IDLE port grants it, and the check of R92 decides. -/
theorem windowAccessAtGrant : Obligations.WindowAccessAtGrant := by
  intro p a addr burst en data m s window h1 h8 fits ready inside found writable
  obtain ⟨served, on⟩ := ready
  intro r e granted faulted
  have check : arrivalCheck (s.unit p) a addr burst = .inr m := by
    rw [arrivalCheck_mapped inside found, if_neg]
    rintro ⟨write, protect⟩
    rw [writable write] at protect
    cases protect
  have request : requestOf p (s.unit p) m a addr burst en data = r := by
    simp only [requestOf, offsetOf_eq, pageOf_eq, alignedAddr_eq, r]
  have run := exec_windowAccess_passed (en := en) window h1 h8 fits served on check
  rw [request] at run
  have waits : s.inService p = true → exec (.windowAccess p a addr burst en data) s =
      .next (s.setUnit p { s.unit p with held := some r, answer := none }) := fun busy => by
    rw [run, if_pos busy]
  have posts : s.inService p = false → exec (.windowAccess p a addr burst en data) s =
      .next (s.setUnit p { s.unit p with request := some r, answer := none }).posted := fun free => by
    rw [run, if_neg (by simp [free])]
  refine ⟨fun busy free => ?_, waits, fun free idle => ?_⟩
  · rw [posts free]
    exact congrArg Host.Outcome.next (if_neg busy)
  have posts := posts (by simp [State.inService, free])
  have repaired : ∀ (maps : PortUnit) (cause : FaultCause), exec (.windowAccess p a addr burst en data) s =
      .next (faultedPart s p maps (.fault r.addr r.context r.access r.burst cause)) →
      ∃ t, exec (.windowAccess p a addr burst en data) s = .next t ∧
        (∀ q d g, t.mapEntry q d g = if q = p then Sparse.find? (maps.mapOf d) g else s.mapEntry q d g) ∧
        t = granted .idle (faulted cause
          { s.unit p with map0 := (t.unit p).map0, map1 := (t.unit p).map1 }) := by
    intro maps cause h
    refine ⟨_, h, faultedPart_mapEntry s p maps _, ?_⟩
    have unit : (faultedPart s p maps (.fault r.addr r.context r.access r.burst cause)).unit p = _ :=
      setUnit_unit_same s p _
    rw [unit, postUnit_touches]
    rfl
  have others : ∀ {t : State} {table : MapTable},
      (∀ q d g, t.mapEntry q d g = if q = p then
        Sparse.find? (((s.unit p).setMap r.context table).mapOf d) g else s.mapEntry q d g) →
      (∀ g, g ≠ r.page → Sparse.find? table g = s.mapEntry p r.context g) →
      ∀ q d g, q ≠ p ∨ d ≠ r.context ∨ g ≠ r.page → t.mapEntry q d g = s.mapEntry q d g := by
    intro t table maps other q d g apart
    rw [maps]
    split
    next same =>
      subst same
      by_cases context : d = r.context
      · subst context
        rw [mapOf_setMap_same]
        exact other g (apart.resolve_left (fun h => h rfl) |>.resolve_left (fun h => h rfl))
      · rw [mapOf_setMap_ne _ _ context]
        rfl
    next => rfl
  refine ⟨fun poisoned => ?_, fun sound stale => ?_, fun sound holds write notPriv => ?_,
    fun sound holds allowed bytes => ?_, fun holds priv write noByte => ?_⟩
  · rw [posts, granted_poisoned (r := r) rfl found rfl free idle (grantFault_poisoned poisoned)]
    rfl
  · obtain ⟨t, ht, maps, eq⟩ := repaired _ .stale (posts.trans (congrArg Host.Outcome.next
      (granted_stale (r := r) rfl found rfl free idle (grantFault_stale sound stale))))
    refine ⟨t, ht, ?_, others maps fun g apart => sparse_find_erase_ne _ apart, eq⟩
    rw [maps, if_pos rfl, mapOf_setMap_same, sparse_find_erase_same]
  · obtain ⟨t, ht, maps, eq⟩ := repaired _ .writeShared (posts.trans (congrArg Host.Outcome.next
      (granted_writeShared (r := r) rfl found rfl free idle (grantFault_writeShared sound holds write notPriv))))
    refine ⟨t, ht, ?_, others maps fun g apart => sparse_find_put_ne _ _ apart, eq⟩
    rw [maps, if_pos rfl, mapOf_setMap_same, sparse_find_put_same]
  · have admitted : s.grantFault r = none := grantFault_eq_none.2 ⟨sound, holds, fun write => by
      rcases allowed with read | priv
      · exact nomatch (read.symm.trans write)
      · exact priv⟩
    have some : ¬(r.access = .write ∧ r.enables = 0) := fun both => by
      rcases bytes with read | some
      · exact nomatch (read.symm.trans both.1)
      · exact some both.2
    rw [posts, granted_served free idle admitted some]
  · have admitted : s.grantFault r = none :=
      grantFault_eq_none.2 ⟨fun bad => (nomatch (priv.symm.trans bad)), holds, fun _ => priv⟩
    rw [posts, granted_noByte (r := r) rfl free idle admitted ⟨write, noByte⟩]

end Sys2Proof.Proofs
end

section
/-! PROOFS. The error code (O55) and the bursts that are performed: O56, O57, O58. -/

namespace Sys2Proof.Proofs
set_option Elab.async false

open Sys2Proof.Machine Sys2Proof.Safety Sys2Proof.Laws

/-! ### The verdict on a word (R107) -/

theorem bitPattern_getLsbD (b i : Fin 39) : (bitPattern b).getLsbD i.val = decide (i = b) := by
  unfold bitPattern
  have place : i.val < 39 := i.isLt
  simp only [BitVec.getLsbD_shiftLeft, place, decide_true, Bool.true_and, Fin.ext_iff]
  by_cases same : i.val = b.val
  · simp [same]
  · by_cases below : i.val < b.val
    · simp [below, same]
    · have above : i.val - b.val ≠ 0 := by omega
      simp [below, same, above]

theorem mem_failedBits (e : Bits39) (i : Fin 39) : i ∈ failedBits e ↔ e.getLsbD i.val = true := by
  simp [failedBits]

theorem failedBits_nodup (e : Bits39) : (failedBits e).Nodup := (List.nodup_finRange 39).filter _

theorem verdictOf_zero : verdictOf 0 = .clean := by
  have none : failedBits 0 = [] := List.eq_nil_iff_forall_not_mem.2 fun i hi => by
    simp [mem_failedBits] at hi
  rw [verdictOf, none]

theorem verdictOf_one (b : Fin 39) : verdictOf (bitPattern b) = .corrected b := by
  have only : failedBits (bitPattern b) = [b] :=
    eq_singleton_of_nodup (failedBits_nodup _) ((mem_failedBits _ _).2 (by simp [bitPattern_getLsbD])) fun i hi => by
      rw [mem_failedBits, bitPattern_getLsbD] at hi
      exact of_decide_eq_true hi
  rw [verdictOf, only]

theorem verdictOf_two {b c : Fin 39} (apart : b ≠ c) :
    verdictOf (bitPattern b ^^^ bitPattern c) = .uncorrectable := by
  have both : (failedBits (bitPattern b ^^^ bitPattern c)).Perm [b, c] := by
    refine (List.perm_ext_iff_of_nodup (failedBits_nodup _) (by simpa using apart)).2 fun i => ?_
    rw [mem_failedBits, BitVec.getLsbD_xor, bitPattern_getLsbD, bitPattern_getLsbD]
    by_cases hb : i = b
    · subst hb
      simp [apart]
    · simp [hb]
  obtain ⟨x, y, pair⟩ := List.length_eq_two.1 both.length_eq
  rw [verdictOf, pair]

/-! ### A word read -/

theorem readWord_clean {m : Memory} {a : Nat} {upset : Bits39} (h : (readStored m a).failed ^^^ upset = 0) :
    readWord m a upset = (writeStored m a ⟨(readStored m a).data, 0⟩, some (readStored m a).data) := by
  simp only [readWord, h, verdictOf_zero]
  simp [dataAsRead]

theorem readWord_corrected {m : Memory} {a : Nat} {upset : Bits39} {b : Fin 39}
    (h : (readStored m a).failed ^^^ upset = bitPattern b) :
    readWord m a upset = (writeStored m a ⟨(readStored m a).data, 0⟩, some (readStored m a).data) := by
  simp only [readWord, h, verdictOf_one]
  simp [dataAsRead]

theorem readWord_uncorrectable {m : Memory} {a : Nat} {upset : Bits39}
    (h : verdictOf ((readStored m a).failed ^^^ upset) = .uncorrectable) :
    readWord m a upset =
      (writeStored m a ⟨(readStored m a).data, (readStored m a).failed ^^^ upset⟩, none) := by
  simp only [readWord, h]

/-- Settles O55: the verdict is read from the list of failed bits. -/
theorem errorCodeVerdicts : Obligations.ErrorCodeVerdicts := by
  intro mem a upset w
  refine ⟨fun clean => ?_, fun b one => ?_, fun b c apart two => ?_, fun b apart => readStored_readWord_ne mem upset apart⟩
  · rw [readWord_clean clean]
    exact ⟨rfl, readStored_writeStored_same _ _ _⟩
  · have pattern : w.failed ^^^ upset = bitPattern b := one
    rw [readWord_corrected pattern, pattern]
    exact ⟨verdictOf_one b, rfl, readStored_writeStored_same _ _ _⟩
  · have pattern : w.failed ^^^ upset = bitPattern b ^^^ bitPattern c := two
    have bad : verdictOf (w.failed ^^^ upset) = .uncorrectable := by rw [pattern]; exact verdictOf_two apart
    rw [readWord_uncorrectable bad]
    exact ⟨bad, rfl, readStored_writeStored_same _ _ _⟩

/-! ### Byte lanes (log 15) -/

theorem laneMask_getLsbD_fin : ∀ (e : Fin 16) (n : Fin 32),
    (laneMask (BitVec.ofFin e)).getLsbD n = (BitVec.ofFin (w := 4) e).getLsbD (n / 8) := by
  decide

theorem laneMask_getLsbD (en : BitVec 4) {n : Nat} (h : n < 32) :
    (laneMask en).getLsbD n = en.getLsbD (n / 8) := laneMask_getLsbD_fin en.toFin ⟨n, h⟩

/-- An enabled byte takes the written bits, the others keep theirs (R112). -/
theorem mergeBytes_getLsbD (en : BitVec 4) (written kept : Word) {n : Nat} (h : n < 32) :
    (mergeBytes en written kept).getLsbD n =
      if en.getLsbD (n / 8) then written.getLsbD n else kept.getLsbD n := by
  simp only [mergeBytes, BitVec.getLsbD_or, BitVec.getLsbD_and, BitVec.getLsbD_not, laneMask_getLsbD en h, h,
    decide_true, Bool.true_and]
  cases en.getLsbD (n / 8) <;> simp

/-! ### Words performed before an error (R110 to R112) -/

/-- The words of the burst are read: by a read, and by a write of one to three bytes a word (R110, R112). -/
def ReadsWords (r : Request) : Prop := r.access = .read ∨ (r.access = .write ∧ r.enables ≠ 0 ∧ r.enables ≠ 0xF)

/-- What performing a word leaves of its data: a read the data, a write the enabled bytes of its own. -/
def wordAfter (r : Request) (i : Nat) (old : Word) : Word :=
  match r.access with
  | .read => old
  | .write => mergeBytes r.enables (r.data.getD i 0) old

/-- What performing a word delivers: the data to a read, nothing to a write. -/
def wordsOut (r : Request) (l : List Word) : List Word :=
  match r.access with
  | .read => l
  | .write => []

theorem wordAddr_inj {r : Request} {i j : Nat} (h : wordAddr r i = wordAddr r j) : i = j := by
  unfold wordAddr at h
  omega

theorem wordAddr_ne {r : Request} {i j : Nat} (h : i ≠ j) : wordAddr r i ≠ wordAddr r j :=
  fun same => h (wordAddr_inj same)

/-- A word without a bit in error. -/
def CleanAt (m : Memory) (r : Request) (upsets : List Bits39) (i : Nat) : Prop :=
  (readStored m (wordAddr r i)).failed ^^^ upsets.getD i 0 = 0

theorem performPlaces_cons_clean {r : Request} {upsets : List Bits39} {i : Nat} {m : Memory} (rest : List Nat)
    (reads : ReadsWords r) (clean : CleanAt m r upsets i) :
    ∃ m1, performPlaces r upsets (i :: rest) m =
        ⟨(performPlaces r upsets rest m1).memory,
          wordsOut r [(readStored m (wordAddr r i)).data] ++ (performPlaces r upsets rest m1).delivered,
          (performPlaces r upsets rest m1).failedAt⟩ ∧
      readStored m1 (wordAddr r i) = ⟨wordAfter r i (readStored m (wordAddr r i)).data, 0⟩ ∧
      ∀ a, a ≠ wordAddr r i → readStored m1 a = readStored m a := by
  have word := readWord_clean clean
  rcases reads with read | ⟨write, some, part⟩
  · refine ⟨writeStored m (wordAddr r i) ⟨(readStored m (wordAddr r i)).data, 0⟩, ?_, ?_, ?_⟩
    · simp only [performPlaces, read, readPlaces, word, wordsOut, List.singleton_append]
    · rw [readStored_writeStored_same, wordAfter, read]
    · exact fun a apart => readStored_writeStored_ne m _ apart
  · refine ⟨writeWord (writeStored m (wordAddr r i) ⟨(readStored m (wordAddr r i)).data, 0⟩) (wordAddr r i)
      (mergeBytes r.enables (r.data.getD i 0) (readStored m (wordAddr r i)).data), ?_, ?_, ?_⟩
    · simp only [performPlaces, write, if_neg part, if_neg some, mergePlaces, word, wordsOut, List.nil_append]
    · rw [writeWord, readStored_writeStored_same, wordAfter, write]
    · intro a apart
      rw [writeWord, readStored_writeStored_ne _ _ apart, readStored_writeStored_ne m _ apart]

/-- The words at these places are performed without an error, and then the others: what was read is delivered, each
word is as `wordAfter` says, and no other word is touched. -/
theorem performPlaces_append_clean {r : Request} {upsets : List Bits39} (reads : ReadsWords r) (done rest : List Nat)
    (m : Memory) (once : done.Nodup) (clean : ∀ i ∈ done, CleanAt m r upsets i) :
    ∃ m1, performPlaces r upsets (done ++ rest) m =
        ⟨(performPlaces r upsets rest m1).memory,
          wordsOut r (done.map fun i => (readStored m (wordAddr r i)).data) ++
            (performPlaces r upsets rest m1).delivered,
          (performPlaces r upsets rest m1).failedAt⟩ ∧
      (∀ i ∈ done, readStored m1 (wordAddr r i) = ⟨wordAfter r i (readStored m (wordAddr r i)).data, 0⟩) ∧
      ∀ a, (∀ i ∈ done, a ≠ wordAddr r i) → readStored m1 a = readStored m a := by
  induction done generalizing m with
  | nil =>
    refine ⟨m, ?_, fun i hi => (nomatch hi), fun a _ => rfl⟩
    cases h : r.access <;> simp [wordsOut, h]
  | cons i later ih =>
    obtain ⟨apart, once⟩ := List.nodup_cons.1 once
    obtain ⟨m1, first, written, others⟩ := performPlaces_cons_clean (later ++ rest) reads (clean i List.mem_cons_self)
    have same : ∀ j ∈ later, readStored m1 (wordAddr r j) = readStored m (wordAddr r j) := fun j hj =>
      others _ (wordAddr_ne fun h => apart (h ▸ hj))
    obtain ⟨m2, performed, words, rest⟩ := ih m1 once fun j hj => by
      rw [CleanAt, same j hj]
      exact clean j (List.mem_cons_of_mem i hj)
    refine ⟨m2, ?_, fun j hj => ?_, fun a away => ?_⟩
    · have data : later.map (fun j => (readStored m1 (wordAddr r j)).data) =
          later.map (fun j => (readStored m (wordAddr r j)).data) := List.map_congr_left fun j hj => by rw [same j hj]
      rw [List.cons_append, first, performed, data]
      cases h : r.access <;> simp [wordsOut, h]
    · rcases List.mem_cons.1 hj with rfl | hj
      · rw [rest _ fun k hk => wordAddr_ne fun h => apart (by rw [h]; exact hk), written]
      · rw [words j hj, same j hj]
    · rw [rest a fun j hj => away j (List.mem_cons_of_mem i hj), others a (away i List.mem_cons_self)]

/-- A burst that meets no error is performed to its end. -/
theorem performBurst_clean {r : Request} {upsets : List Bits39} {m : Memory} (reads : ReadsWords r)
    (clean : ∀ i < r.burst, CleanAt m r upsets i) :
    (performBurst r upsets m).failedAt = none ∧
      (performBurst r upsets m).delivered =
        wordsOut r ((List.range r.burst).map fun i => (readStored m (wordAddr r i)).data) ∧
      ∀ i < r.burst, readStored (performBurst r upsets m).memory (wordAddr r i) =
        ⟨wordAfter r i (readStored m (wordAddr r i)).data, 0⟩ := by
  obtain ⟨m1, performed, words, -⟩ := performPlaces_append_clean (upsets := upsets) reads (List.range r.burst) [] m
    List.nodup_range fun i hi => clean i (List.mem_range.1 hi)
  have none : ∀ m1, performPlaces r upsets [] m1 = ⟨m1, [], none⟩ := fun m1 => by
    rcases reads with read | ⟨write, some, part⟩
    · simp only [performPlaces, read, readPlaces]
    · simp only [performPlaces, write, if_neg part, if_neg some, mergePlaces]
  rw [List.append_nil, none] at performed
  rw [performBurst, performed]
  exact ⟨rfl, by simp, fun i hi => words i (List.mem_range.2 hi)⟩

/-- The word found UNCORRECTABLE ends the burst: the words before it are performed, it is left as found, and no
later one is touched (R115). -/
theorem performBurst_stops {r : Request} {upsets : List Bits39} {m : Memory} {place : Nat} (reads : ReadsWords r)
    (inside : place < r.burst) (clean : ∀ i < place, CleanAt m r upsets i)
    (bad : verdictOf ((readStored m (wordAddr r place)).failed ^^^ upsets.getD place 0) = .uncorrectable) :
    (performBurst r upsets m).failedAt = some place ∧
      (performBurst r upsets m).delivered =
        wordsOut r ((List.range place).map fun i => (readStored m (wordAddr r i)).data) ∧
      (∀ i < place, readStored (performBurst r upsets m).memory (wordAddr r i) =
        ⟨wordAfter r i (readStored m (wordAddr r i)).data, 0⟩) ∧
      readStored (performBurst r upsets m).memory (wordAddr r place) =
        ⟨(readStored m (wordAddr r place)).data,
          (readStored m (wordAddr r place)).failed ^^^ upsets.getD place 0⟩ ∧
      ∀ a, (∀ i ≤ place, a ≠ wordAddr r i) →
        readStored (performBurst r upsets m).memory a = readStored m a := by
  obtain ⟨m1, performed, words, others⟩ := performPlaces_append_clean (upsets := upsets) reads (List.range place)
    (place :: (List.range r.burst).drop (place + 1)) m List.nodup_range fun i hi => clean i (List.mem_range.1 hi)
  have split : List.range place ++ place :: (List.range r.burst).drop (place + 1) = List.range r.burst := by
    have whole := List.take_append_drop place (List.range r.burst)
    rw [List.take_range, Nat.min_eq_left (Nat.le_of_lt inside),
      List.drop_eq_getElem_cons (by simpa using inside), List.getElem_range] at whole
    exact whole
  have same : readStored m1 (wordAddr r place) = readStored m (wordAddr r place) :=
    others _ fun i hi => wordAddr_ne (Nat.ne_of_gt (List.mem_range.1 hi))
  have word : readWord m1 (wordAddr r place) (upsets.getD place 0) = _ := readWord_uncorrectable (by rw [same]; exact bad)
  have stops : performPlaces r upsets (place :: (List.range r.burst).drop (place + 1)) m1 =
      ⟨writeStored m1 (wordAddr r place) ⟨(readStored m1 (wordAddr r place)).data,
        (readStored m1 (wordAddr r place)).failed ^^^ upsets.getD place 0⟩, [], some place⟩ := by
    rcases reads with read | ⟨write, some, part⟩
    · simp only [performPlaces, read, readPlaces, word]
    · simp only [performPlaces, write, if_neg part, if_neg some, mergePlaces, word]
  rw [split, stops, same] at performed
  rw [performBurst, performed]
  refine ⟨rfl, List.append_nil _, fun i hi => ?_, readStored_writeStored_same _ _ _, fun a away => ?_⟩
  · exact (readStored_writeStored_ne _ _ (wordAddr_ne (Nat.ne_of_lt hi))).trans (words i (List.mem_range.2 hi))
  · exact (readStored_writeStored_ne _ _ (away place (Nat.le_refl _))).trans
      (others a fun i hi => away i (Nat.le_of_lt (List.mem_range.1 hi)))

end Sys2Proof.Proofs
end

section
/-! PROOFS. What the operations on one frame do to it, to the port units, to the recall table and to the wait pool,
where no other frame comes into it. -/

namespace Sys2Proof.Proofs
set_option Elab.async false

open Sys2Proof.Machine Sys2Proof.Safety Sys2Proof.Laws

/-- All that an operation on one frame may touch beside the state counts: the frame's entry, which becomes `e`, the
port units, the recall table, the deferred list and the number of free wait records. -/
structure Effect (f : Nat) (s t : State) (e : Entry) (unit : Port → PortUnit)
    (recalls : Vector (Option RecallRec) 8) (deferred : List Deferred) (pool : Nat) : Prop where
  entry : t.entry f = e
  others : ∀ g, g ≠ f → t.entry g = s.entry g
  units : ∀ q, t.unit q = unit q
  recalls : t.recalls = recalls
  deferred : t.deferred = deferred
  poolFree : t.poolFree = pool

theorem Effect.trans {f : Nat} {s t u : State} {e e' : Entry} {unit unit' : Port → PortUnit}
    {v v' : Vector (Option RecallRec) 8} {l l' : List Deferred} {n n' : Nat} (h : Effect f s t e unit v l n)
    (k : Effect f t u e' unit' v' l' n') : Effect f s u e' unit' v' l' n' :=
  ⟨k.entry, fun g apart => (k.others g apart).trans (h.others g apart), k.units, k.recalls, k.deferred, k.poolFree⟩

theorem Effect.congr {f : Nat} {s t : State} {e e' : Entry} {unit unit' : Port → PortUnit}
    {v v' : Vector (Option RecallRec) 8} {l l' : List Deferred} {n n' : Nat} (h : Effect f s t e unit v l n)
    (entry : e = e') (units : ∀ q, unit q = unit' q) (recalls : v = v') (deferred : l = l') (pool : n = n') :
    Effect f s t e' unit' v' l' n' :=
  ⟨h.entry.trans entry, h.others, fun q => (h.units q).trans (units q), h.recalls.trans recalls,
    h.deferred.trans deferred, h.poolFree.trans pool⟩

/-! ### One operation each -/

/-- A unit whose port has come to hold a frame, or has ceased to. -/
def holdingMoved (u : PortUnit) (was is : Bool) : PortUnit := { u with holding := countChange was is u.holding }

theorem holdingMoved_same (u : PortUnit) (b : Bool) : holdingMoved u b b = u := by
  rw [holdingMoved, countChange_same]

theorem effect_putEntry (s : State) (f : Nat) (e : Entry) :
    Effect f s (s.putEntry f e) e
      (fun q => holdingMoved (s.unit q) ((s.entry f).holders.get q) (e.holders.get q)) s.recalls s.deferred s.poolFree :=
  ⟨entry_putEntry_same s f e, fun _ apart => entry_putEntry_ne s e apart, fun q => putEntry_unit s f e q, rfl, rfl, rfl⟩

theorem effect_putEntry_sameHolders (s : State) {f : Nat} {e : Entry} (same : e.holders = (s.entry f).holders) :
    Effect f s (s.putEntry f e) e s.unit s.recalls s.deferred s.poolFree :=
  (effect_putEntry s f e).congr rfl (fun q => by rw [same, holdingMoved_same]) rfl rfl rfl

theorem effect_returnRecord (s : State) (f : Nat) (p : Port) :
    Effect f s (s.returnRecord p) (s.entry f)
      (fun q => if q = p then { s.unit q with waiting := (s.unit q).waiting - 1 } else s.unit q)
      s.recalls s.deferred (s.poolFree + 1) := by
  refine ⟨rfl, fun _ _ => rfl, fun q => ?_, rfl, rfl, rfl⟩
  show (s.setUnit p _).unit q = _
  rw [setUnit_unit]
  by_cases same : q = p
  · subst same
    exact (if_pos rfl).trans (if_pos rfl).symm
  · rw [if_neg same, if_neg same]

theorem effect_setRecalls (s : State) (f : Nat) (v : Vector (Option RecallRec) 8) :
    Effect f s { s with recalls := v } (s.entry f) s.unit v s.deferred s.poolFree :=
  ⟨rfl, fun _ _ => rfl, fun _ => rfl, rfl, rfl, rfl⟩

theorem effect_setDeferred (s : State) (f : Nat) (l : List Deferred) :
    Effect f s { s with deferred := l } (s.entry f) s.unit s.recalls l s.poolFree :=
  ⟨rfl, fun _ _ => rfl, fun _ => rfl, rfl, rfl, rfl⟩

theorem effect_post (s : State) (f : Nat) (p : Port) (r : EventRecord) :
    Effect f s (s.post p r) (s.entry f) (fun q => if q = p then postUnit (s.unit q) r else s.unit q)
      s.recalls s.deferred s.poolFree := by
  refine ⟨rfl, fun _ _ => rfl, fun q => ?_, rfl, rfl, rfl⟩
  rw [post_unit]
  by_cases same : q = p
  · rw [if_pos same, if_pos same, same]
  · rw [if_neg same, if_neg same]

theorem effect_postSet (s : State) (f : Nat) (ps : PortSet) (r : EventRecord) :
    Effect f s (s.postSet ps r) (s.entry f) (fun q => if ps.get q = true then postUnit (s.unit q) r else s.unit q)
      s.recalls s.deferred s.poolFree :=
  have quiet := quiet_postSet s ps r
  ⟨postSet_entry s ps r f, fun g _ => postSet_entry s ps r g, postSet_unit s ps r, quiet.recalls, quiet.deferred,
    quiet.poolFree⟩

/-! ### The recall of a frame ends (R66) -/

/-- The recall table when a frame with this recall field has no recall any more. -/
def recallsWithout (field : RecallField) (v : Vector (Option RecallRec) 8) : Vector (Option RecallRec) 8 :=
  match field with
  | .active i => v.set i none
  | .deferred => v
  | .none => v

/-- The deferred list when frame `f` with this recall field has no recall any more. -/
def deferredWithout (field : RecallField) (f : Nat) (l : List Deferred) : List Deferred :=
  match field with
  | .active _ => l
  | .deferred => l.filter (fun d => d.frame != f)
  | .none => l

theorem recallsWithout_get (field : RecallField) (v : Vector (Option RecallRec) 8) (i : Fin 8) :
    (recallsWithout field v).get i = if field = .active i then none else v.get i := by
  cases field with
  | none => simp [recallsWithout]
  | deferred => simp [recallsWithout]
  | active j =>
    rw [recallsWithout, recalls_get_set]
    by_cases same : i = j
    · simp [same]
    · simp [same, Ne.symm same]

theorem deferredWithout_eq (field : RecallField) (f : Nat) (l : List Deferred) :
    deferredWithout field f l = if field = .deferred then l.filter (fun d => d.frame != f) else l := by
  cases field <;> simp [deferredWithout]

/-- Removing the frame's recall serves no deferred frame: it has none, or a deferred one, or the deferred list is
empty (R58). -/
def RecallAlone (s : State) (f : Nat) : Prop :=
  (s.entry f).recallField = .none ∨ (s.entry f).recallField = .deferred ∨
    ∃ i, (s.entry f).recallField = .active i ∧ s.deferred = []

theorem effect_dropRecall {s : State} {f : Nat} (alone : RecallAlone s f) :
    Effect f s (s.dropRecall f) { s.entry f with recallField := .none } s.unit
      (recallsWithout (s.entry f).recallField s.recalls)
      (deferredWithout (s.entry f).recallField f s.deferred) s.poolFree := by
  rcases alone with field | field | ⟨i, field, empty⟩
  · rw [dropRecall_none field, field]
    exact ⟨by rw [← field], fun _ _ => rfl, fun _ => rfl, rfl, rfl, rfl⟩
  · rw [dropRecall_deferred field, field]
    exact (effect_setDeferred s f _).trans (effect_putEntry_sameHolders ({ s with deferred := _ } : State) rfl)
  · rw [dropRecall_active_nil field empty, field]
    exact (effect_setRecalls s f _).trans (effect_putEntry_sameHolders ({ s with recalls := _ } : State) rfl)

/-! ### The head is granted (R36, R37) -/

/-- A waiter's unit when its claim is granted: the wait record is returned, the frame is held, the record queued. -/
def grantedTo (u : PortUnit) (was : Bool) (r : EventRecord) : PortUnit :=
  postUnit { u with waiting := u.waiting - 1, holding := countChange was true u.holding } r

/-- The entry after its head is granted. -/
def Entry.headGranted (e : Entry) (h : WaitRec) : Entry :=
  { e with holders := e.holders.set h.port true, state := heldState h.mode, queue := e.queue.tail, recallField := .none }

theorem effect_grantHead {s : State} {f : Nat} (h : WaitRec) (forced upgraded : Bool) (alone : RecallAlone s f) :
    Effect f s (s.grantHead f h forced upgraded) (Entry.headGranted (s.entry f) h)
      (fun q => if q = h.port then
        grantedTo (s.unit q) ((s.entry f).holders.get q) (.grant f h.mode h.tag forced false upgraded)
        else s.unit q)
      (recallsWithout (s.entry f).recallField s.recalls)
      (deferredWithout (s.entry f).recallField f s.deferred) (s.poolFree + 1) := by
  let e1 : Entry := { s.entry f with queue := (s.entry f).queue.tail }
  let s1 := s.putEntry f e1
  have h1 : Effect f s s1 e1 s.unit s.recalls s.deferred s.poolFree := effect_putEntry_sameHolders s rfl
  let s2 := s1.returnRecord h.port
  have h2 := effect_returnRecord s1 f h.port
  have entry2 : s2.entry f = e1 := h2.entry.trans h1.entry
  have alone2 : RecallAlone s2 f := by
    unfold RecallAlone
    rw [entry2]
    exact alone
  have h3 := effect_dropRecall alone2
  have entry3 : (s2.dropRecall f).entry f = { e1 with recallField := .none } := by rw [h3.entry, entry2]
  have h4 := effect_putEntry (s2.dropRecall f) f
    { (s2.dropRecall f).entry f with
      holders := ((s2.dropRecall f).entry f).holders.set h.port true, state := heldState h.mode }
  have h5 := effect_post ((s2.dropRecall f).putEntry f
    { (s2.dropRecall f).entry f with
      holders := ((s2.dropRecall f).entry f).holders.set h.port true, state := heldState h.mode }) f h.port
    (.grant f h.mode h.tag forced false upgraded)
  refine ((((h1.trans h2).trans h3).trans h4).trans h5).congr ?_ (fun q => ?_) ?_ ?_ ?_
  · rw [h4.entry, entry3]
    rfl
  · rw [h4.units, h3.units, h2.units, h1.units, entry3]
    by_cases same : q = h.port
    · subst same
      simp only [if_true, perPort_get_set_same]
      rfl
    · simp only [if_neg same, perPort_get_set_ne _ _ same, holdingMoved_same, e1]
  · rw [h4.recalls, h3.recalls, entry2, h2.recalls, h1.recalls]
  · rw [h4.deferred, h3.deferred, entry2, h2.deferred, h1.deferred]
  · rw [h4.poolFree, h3.poolFree, h2.poolFree, h1.poolFree]

/-! ### A recall is started or deferred (R54 to R56) -/

theorem startRecall_eq {s : State} {f : Nat} (i : Fin 8) {h : WaitRec} {rest : List WaitRec}
    (queue : (s.entry f).queue = h :: rest) :
    s.startRecall f i = (({ s with recalls := s.recalls.set i (some (newRecord s f h)) } : State).putEntry f
      { s.entry f with recallField := .active i }).postSet (toReleaseOf (s.entry f))
        (.recallNotice f h.port h.mode s.recallTimeout) := by
  unfold State.startRecall
  dsimp only
  split
  next none => exact absurd (none.symm.trans queue) (by simp)
  next h' rest' queue' =>
    obtain ⟨rfl, rfl⟩ := List.cons.inj (queue'.symm.trans queue)
    rfl

theorem effect_startRecall {s : State} {f : Nat} (i : Fin 8) {h : WaitRec} {rest : List WaitRec}
    (queue : (s.entry f).queue = h :: rest) :
    Effect f s (s.startRecall f i) { s.entry f with recallField := .active i }
      (fun q => if ((s.entry f).holders.set h.port false).get q = true then
        postUnit (s.unit q) (.recallNotice f h.port h.mode s.recallTimeout) else s.unit q)
      (s.recalls.set i (some ⟨f, h.port, h.mode, (s.entry f).holders.set h.port false, s.now + s.recallTimeout * 10⟩))
      s.deferred s.poolFree := by
  have asked : toReleaseOf (s.entry f) = (s.entry f).holders.set h.port false := by rw [toReleaseOf, queue]
  have filed := (effect_setRecalls s f (s.recalls.set i (some (newRecord s f h)))).trans
    (effect_putEntry_sameHolders ({ s with recalls := s.recalls.set i (some (newRecord s f h)) } : State)
      (e := { s.entry f with recallField := .active i }) rfl)
  rw [startRecall_eq i queue, asked]
  refine (filed.trans (effect_postSet _ f _ _)).congr filed.entry (fun q => ?_) ?_ filed.deferred filed.poolFree
  · rw [filed.units]
    rfl
  · rw [filed.recalls, newRecord, asked]

theorem effect_deferRecall {s : State} {f : Nat} {h : WaitRec} {rest : List WaitRec}
    (queue : (s.entry f).queue = h :: rest) :
    Effect f s (s.deferRecall f) { s.entry f with recallField := .deferred } s.unit s.recalls
      (placeDeferred ⟨f, h.seq⟩ s.deferred) s.poolFree := by
  rw [deferRecall_eq queue]
  exact (effect_setDeferred s f _).trans (effect_putEntry_sameHolders ({ s with deferred := _ } : State) rfl)

/-- The free record with the lowest index is found (R54). -/
theorem freeRecall_lowest {s : State} {i : Fin 8} (free : s.recalls.get i = none)
    (used : ∀ j, j < i → s.recalls.get j ≠ none) : s.freeRecall = some i := by
  have order : [0, 1, 2, 3, 4, 5, 6, 7] = List.finRange 8 := by decide
  have found : ((List.finRange 8).find? fun j => (s.recalls.get j).isNone) = some i := by
    refine List.find?_eq_some_iff_getElem.2 ⟨by simp [free], i.val, by simp, by simp, fun j below => ?_⟩
    have place : ∀ h : j < (List.finRange 8).length, (List.finRange 8)[j] = ⟨j, by simpa using h⟩ := fun h => by simp
    rw [place]
    simpa [Option.isSome_iff_ne_none] using used ⟨j, _⟩ below
  rw [State.freeRecall, order, found]

theorem freeRecall_full {s : State} (full : ∀ i, s.recalls.get i ≠ none) : s.freeRecall = none :=
  List.find?_eq_none.2 fun i _ => by simpa using full i

/-- The frame has no recall yet and a record is free: a recall is started in the lowest one (R35, R54). -/
theorem ensureRecall_starts {s : State} {f : Nat} {i : Fin 8} (field : (s.entry f).recallField = .none)
    (free : s.recalls.get i = none) (used : ∀ j, j < i → s.recalls.get j ≠ none) :
    s.ensureRecall f = s.startRecall f i := by
  simp only [State.ensureRecall, field, freeRecall_lowest free used]

/-- The frame has no recall yet and no record is free: it is deferred (R35, R56). -/
theorem ensureRecall_defers {s : State} {f : Nat} (field : (s.entry f).recallField = .none)
    (full : ∀ i, s.recalls.get i ≠ none) : s.ensureRecall f = s.deferRecall f := by
  simp only [State.ensureRecall, field, freeRecall_full full]

theorem ensureRecall_inBeing {s : State} {f : Nat} (field : (s.entry f).recallField ≠ .none) : s.ensureRecall f = s := by
  unfold State.ensureRecall
  split
  next none => exact absurd none field
  next => rfl
  next => rfl

/-! ### The passes of advancement (R34) -/

/-- A head that the frame's state admits is granted: any on a FREE frame, a SHARED one on a SHARED frame. -/
theorem advanceFuel_grants {s : State} {f : Nat} {h : WaitRec} {rest : List WaitRec} (forced : Bool) (n : Nat)
    (queue : (s.entry f).queue = h :: rest)
    (admits : (s.entry f).state = .free ∨ ((s.entry f).state = .shared ∧ h.mode = .shared)) :
    State.advanceFuel forced f (n + 1) s = State.advanceFuel forced f n (s.grantHead f h forced false) := by
  simp only [State.advanceFuel, queue]
  rcases admits with state | ⟨state, mode⟩
  · cases mode : h.mode <;> simp only [state]
  · simp only [state, mode]

/-- A PRIVATE head that is the sole holder of a SHARED frame is upgraded (R34 step 4). -/
theorem advanceFuel_upgrades {s : State} {f : Nat} {h : WaitRec} {rest : List WaitRec} (forced : Bool) (n : Nat)
    (queue : (s.entry f).queue = h :: rest) (state : (s.entry f).state = .shared) (mode : h.mode = .priv)
    (sole : (s.entry f).holders = onePort h.port) :
    State.advanceFuel forced f (n + 1) s = State.advanceFuel forced f n (s.grantHead f h forced true) := by
  simp only [State.advanceFuel, queue, state, mode, if_pos sole]

/-- Other holders stand in the head's way: the frame is PRIVATE, or it is SHARED and the head wants it PRIVATE. -/
def HeadBarred (e : Entry) (h : WaitRec) : Prop :=
  e.state = .priv ∨ (e.state = .shared ∧ h.mode = .priv ∧ e.holders.set h.port false ≠ noPorts)

theorem advanceFuel_recalls {s : State} {f : Nat} {h : WaitRec} {rest : List WaitRec} (forced : Bool) (n : Nat)
    (queue : (s.entry f).queue = h :: rest) (barred : HeadBarred (s.entry f) h) :
    State.advanceFuel forced f (n + 1) s = s.ensureRecall f := by
  simp only [State.advanceFuel, queue]
  rcases barred with state | ⟨state, mode, others⟩
  · simp only [state]
  · have several : (s.entry f).holders ≠ onePort h.port := fun sole => others (by
      rw [sole, onePort_set_false])
    have asked : ¬ setIsEmpty (toReleaseOf (s.entry f)) = true := by
      rw [toReleaseOf, queue]
      simpa [setIsEmpty] using others
    simp only [state, mode, if_neg several, if_neg asked]

theorem advance_recalls {s : State} {f : Nat} {h : WaitRec} {rest : List WaitRec} (forced : Bool)
    (queue : (s.entry f).queue = h :: rest) (barred : HeadBarred (s.entry f) h) :
    s.advance forced f = s.ensureRecall f := by
  have passes : (s.entry f).queue.length = rest.length + 1 := by rw [queue, List.length_cons]
  rw [State.advance, passes, advanceFuel_recalls forced _ queue barred]

/-- A head alone in the queue of a frame that admits it is granted, and that is all. -/
theorem advance_grants_only {s : State} {f : Nat} {h : WaitRec} (forced : Bool)
    (queue : (s.entry f).queue = [h])
    (admits : (s.entry f).state = .free ∨ ((s.entry f).state = .shared ∧ h.mode = .shared)) :
    s.advance forced f = s.grantHead f h forced false := by
  have passes : (s.entry f).queue.length = 0 + 1 := by rw [queue, List.length_singleton]
  rw [State.advance, passes, advanceFuel_grants forced 0 queue admits]
  rfl

/-! ### A run of SHARED waiters -/

/-- A run of SHARED waiters is granted together: no other port is told, and the wait records return. -/
structure RunGranted (f : Nat) (run : List WaitRec) (forced : Bool) (s t : State) : Prop where
  entry : t.entry f = { s.entry f with
    state := .shared, holders := (t.entry f).holders, queue := [], recallField := .none }
  holders : ∀ q, (t.entry f).holders.get q = ((s.entry f).holders.get q || waitsIn run q)
  others : ∀ g, g ≠ f → t.entry g = s.entry g
  granted : ∀ w ∈ run, t.unit w.port = grantedTo (s.unit w.port) false (.grant f .shared w.tag forced false false)
  units : ∀ q, waitsIn run q = false → t.unit q = s.unit q
  recalls : t.recalls = recallsWithout (s.entry f).recallField s.recalls
  deferred : t.deferred = deferredWithout (s.entry f).recallField f s.deferred
  poolFree : t.poolFree = s.poolFree + run.length

theorem waitsIn_cons (w : WaitRec) (rest : List WaitRec) (q : Port) :
    waitsIn (w :: rest) q = (decide (q = w.port) || waitsIn rest q) := by
  simp [waitsIn, Bool.beq_eq_decide_eq, eq_comm]

theorem runGranted_advanceFuel {f : Nat} (forced : Bool) (run : List WaitRec) {s : State} (some : run ≠ [])
    (queue : (s.entry f).queue = run) (state : (s.entry f).state = .free ∨ (s.entry f).state = .shared)
    (modes : ∀ w ∈ run, w.mode = .shared) (absent : ∀ w ∈ run, (s.entry f).holders.get w.port = false)
    (once : (run.map WaitRec.port).Nodup) (alone : RecallAlone s f) :
    RunGranted f run forced s (State.advanceFuel forced f run.length s) := by
  induction run generalizing s with
  | nil => exact absurd rfl some
  | cons w rest ih =>
    have mode := modes w List.mem_cons_self
    obtain ⟨apart, once⟩ := List.nodup_cons.1 (List.map_cons ▸ once)
    have ne : ∀ x ∈ rest, x.port ≠ w.port := fun x hx same => apart (same ▸ List.mem_map_of_mem hx)
    have first := effect_grantHead w forced false alone
    rw [List.length_cons, advanceFuel_grants forced _ queue (state.imp id fun h => ⟨h, mode⟩)]
    let t := s.grantHead f w forced false
    have entry : t.entry f = { s.entry f with
        state := .shared, holders := (s.entry f).holders.set w.port true, queue := rest, recallField := .none } := by
      rw [first.entry, Entry.headGranted, mode, queue]
      rfl
    have told : t.unit w.port = grantedTo (s.unit w.port) false (.grant f .shared w.tag forced false false) := by
      rw [first.units, if_pos rfl, absent w List.mem_cons_self, mode]
    cases rest with
    | nil =>
      show RunGranted f [w] forced s t
      refine ⟨?_, fun q => ?_, first.others, fun x hx => ?_, fun q hq => ?_, first.recalls, first.deferred, first.poolFree⟩
      · exact entry.trans (by rw [entry])
      · rw [entry, perPort_get_set, waitsIn_cons]
        by_cases same : q = w.port <;> simp [same, waitsIn]
      · rw [List.mem_singleton.1 hx]
        exact told
      · rw [waitsIn_cons] at hq
        exact (first.units q).trans (if_neg (by simpa [waitsIn] using hq))
    | cons x more =>
      have again := ih (s := t) (by simp) (by rw [entry]) (.inr (by rw [entry]))
        (fun y hy => modes y (List.mem_cons_of_mem _ hy))
        (fun y hy => by
          rw [entry]
          exact (perPort_get_set_ne _ _ (ne y hy)).trans (absent y (List.mem_cons_of_mem _ hy)))
        once (.inl (by rw [entry]))
      refine ⟨?_, fun q => ?_, fun g apart => ?_, fun y hy => ?_, fun q hq => ?_, ?_, ?_, ?_⟩
      · exact again.entry.trans (by rw [entry])
      · rw [again.holders, entry, waitsIn_cons w, perPort_get_set]
        by_cases same : q = w.port <;> simp [same]
      · rw [again.others g apart, first.others g apart]
      · rcases List.mem_cons.1 hy with rfl | hy
        · rw [again.units _ ?_]
          · exact told
          · exact (waitsIn_false_iff _ _).2 ne
        · rw [again.granted y hy, first.units, if_neg (ne y hy)]
      · rw [waitsIn_cons] at hq
        obtain ⟨away, none⟩ := Bool.or_eq_false_iff.1 hq
        rw [again.units q none, first.units, if_neg (of_decide_eq_false away)]
      · rw [again.recalls, entry]
        exact first.recalls
      · rw [again.deferred, entry]
        exact first.deferred
      · rw [again.poolFree, first.poolFree]
        simp only [List.length_cons]
        omega

theorem runGranted_advance {f : Nat} (forced : Bool) {s : State} (some : (s.entry f).queue ≠ [])
    (state : (s.entry f).state = .free ∨ (s.entry f).state = .shared)
    (modes : ∀ w ∈ (s.entry f).queue, w.mode = .shared)
    (absent : ∀ w ∈ (s.entry f).queue, (s.entry f).holders.get w.port = false)
    (once : ((s.entry f).queue.map WaitRec.port).Nodup) (alone : RecallAlone s f) :
    RunGranted f (s.entry f).queue forced s (s.advance forced f) :=
  runGranted_advanceFuel forced _ some rfl state modes absent once alone

end Sys2Proof.Proofs
end

section
/-! PROOFS. CLAIM that is taken or queued: O34, O35, O36. -/

namespace Sys2Proof.Proofs
set_option Elab.async false

open Sys2Proof.Machine Sys2Proof.Safety Sys2Proof.Laws

section Claim

variable {p : Port} {f : Nat} {m : Mode} {tag : BitVec 8}

/-! ### The answer of a claim (R24) -/

/-- The result words of a claim, read from the state that it leaves. -/
def claimWords (s : State) (p : Port) (c : ResultCode) (f : Nat) (o : ClaimOutcome) (tag : BitVec 8) (position : Nat)
    (promoted : Bool) : Words4 :=
  ⟨BitVec.ofNat 32 c.value, pack [fFrame f, fHeld (heldMode (s.entry f) p), (4, outcomeCode o)],
    pack [fSmall tag.toNat, fSmall position, fFlag promoted],
    pack [fSmall (s.unit p).waiting, fSmall s.poolFree]⟩

theorem claimReply_answered (s : State) (p : Port) (code : Word) (r : Words4) (c : ResultCode) (f : Nat)
    (o : ClaimOutcome) (tag : BitVec 8) (position : Nat) (promoted : Bool) :
    (answered s p code r).claimReply p c f o tag position promoted =
      answered s p code (claimWords s p c f o tag position promoted) := by
  rw [State.claimReply, reply_answered, answered_entry, answered_waiting]
  rfl

theorem heldMode_of_held {e : Entry} {p : Port} {m : Mode} (held : e.holders.get p = true) (state : e.state = heldState m) :
    heldMode e p = some m := by
  cases m <;> simp [heldMode, held, state, heldState]

/-! ### A claim taken at once -/

/-- A claim that the frame's entry lets be taken is answered from the state that taking it leaves. -/
theorem exec_claim_taken {s : State} (hready : Ready s p) (h0 : s.arg p 0 = f) (hf : f < s.frames)
    (h1 : s.arg p 1 = modeCode m) (h2 : s.arg p 2 = tag.toNat) (waits : waitsIn (s.entry f).queue p = false)
    {o : ClaimOutcome} (case : claimCase (s.entry f) p m = .take o) {t : State}
    (taken : (if o = .downgraded then (s.putEntry f (takenEntry (s.entry f) p m o)).advance false f
      else s.putEntry f (takenEntry (s.entry f) p m o)) = t) :
    exec (.claim p) s = .next (answered t p 0x10 (claimWords t p .ok f o tag 0 false)) := by
  have state : (s.entry f).state ≠ .poisoned := fun poisoned => by simp [claimCase, poisoned] at case
  rw [exec_claim hready h0 hf h1 h2, ownClaim_case _ (by rw [answered_entry]; exact state)
    (by rw [answered_entry]; exact waits), answered_entry, case]
  simp only [State.takeClaim, answered_entry, putEntry_answered, advance_answered]
  rw [← taken]
  split
  · rw [claimReply_answered]
  · rw [claimReply_answered]

/-- The result words of a claim answered OK. -/
theorem claimWords_taken {t : State} {n k : Nat} {o : ClaimOutcome} (held : heldMode (t.entry f) p = some m)
    (waiting : (t.unit p).waiting = n) (pool : t.poolFree = k) :
    claimWords t p .ok f o tag 0 false =
      ⟨0, pack [fFrame f, fMode m, (4, outcomeCode o)], pack [fSmall tag.toNat, fSmall 0, fFlag false],
        pack [fSmall n, fSmall k]⟩ := by
  rw [claimWords, held, waiting, pool]
  rfl

/-- A claim that changes the entry alone. -/
theorem exec_claim_entry {s : State} (hready : Ready s p) (h0 : s.arg p 0 = f) (hf : f < s.frames)
    (h1 : s.arg p 1 = modeCode m) (h2 : s.arg p 2 = tag.toNat) (waits : waitsIn (s.entry f).queue p = false)
    {o : ClaimOutcome} (case : claimCase (s.entry f) p m = .take o) {e : Entry}
    (taken : (if o = .downgraded then (s.putEntry f (takenEntry (s.entry f) p m o)).advance false f
      else s.putEntry f (takenEntry (s.entry f) p m o)) = s.putEntry f e)
    (held : e.holders.get p = true) (state : e.state = heldState m) :
    exec (.claim p) s = .next (answered (s.putEntry f e) p 0x10
      ⟨0, pack [fFrame f, fMode m, (4, outcomeCode o)], pack [fSmall tag.toNat, fSmall 0, fFlag false],
        pack [fSmall (s.unit p).waiting, fSmall s.poolFree]⟩) := by
  rw [exec_claim_taken hready h0 hf h1 h2 waits case taken]
  rw [claimWords_taken (t := s.putEntry f e) (m := m) (n := (s.unit p).waiting) (k := s.poolFree)
    (heldMode_of_held (by rw [entry_putEntry_same]; exact held) (by rw [entry_putEntry_same]; exact state))
    (by rw [putEntry_unit]) rfl]

/-! ### An entry put back as it is -/

theorem sparse_put_same {α : Type} {l : List (Nat × α)} {a : Nat} {v : α} (rising : Sparse.rising l)
    (found : Sparse.find? l a = some v) : Sparse.put l a v = l :=
  List.Perm.eq_of_pairwise (fun _ _ _ _ h k => absurd h (Nat.lt_asymm k)) (sparse_rising_put a v rising) rising
    ((sparse_perm_insert _ _ _).trans (sparse_perm_erase rising found).symm)

theorem putEntry_same {s : State} (wf : Directory.wf s.dir) (f : Nat) : s.putEntry f (s.entry f) = s := by
  have dir : putDirectory s.dir f (s.entry f) = s.dir := by
    unfold putDirectory
    cases found : Sparse.find? s.dir f with
    | none =>
      have reset : s.entry f = Entry.reset := by rw [State.entry, found, Option.getD_none]
      rw [if_pos reset, sparse_erase_of_none found]
    | some e =>
      have entry : s.entry f = e := by rw [State.entry, found, Option.getD_some]
      rw [entry, if_neg (wf.2 _ ((sparse_find_iff_mem wf.1 f e).1 found)), sparse_put_same wf.1 found]
  have status : (s.sweepComplete || ((s.entry f).state == .uninitialized && (s.entry f).state != .uninitialized &&
      s.uninitCount == 0)) = s.sweepComplete := by
    cases (s.entry f).state <;> simp
  simp only [State.putEntry, dir, countChange_same, holdingChange_same, status]

/-! ### A claim of each outcome (R26, R28, R30, R31) -/

end Claim

/-- Settles O34: the entry that each outcome leaves; after a downgrade advancement runs on it. -/
theorem claimTakenAtOnce : Obligations.ClaimTakenAtOnce := by
  intro p f m tag s hready h0 hf h1 h2 waits wf result
  have entry := @exec_claim_entry p f m tag s hready h0 hf h1 h2 waits
  refine ⟨fun free => ?_, fun shared mode held empty => ?_, fun shared mode sole empty => ?_,
    fun priv mode held empty => ?_, fun h rest priv mode sole queue headMode field => ?_,
    fun priv mode sole some modes once alone => ?_, fun state held => ?_⟩
  · exact entry (o := .granted) (by simp [claimCase, free]) (if_neg (by decide)) (onePort_get_same p) rfl
  · subst mode
    exact entry (o := .joined) (by simp [claimCase, shared, held, empty]) (if_neg (by decide))
      (perPort_get_set_same _ _ _) shared
  · subst mode
    exact entry (o := .upgraded) (by simp [claimCase, shared, sole, empty]) (if_neg (by decide))
      (by rw [sole]; exact onePort_get_same p) rfl
  · subst mode
    refine entry (o := .downgraded) (by simp [claimCase, priv, held]) ?_ held rfl
    rw [if_pos rfl, advance_of_queue_nil false (by rw [entry_putEntry_same]; exact empty)]
    rfl
  · subst mode
    have held : (s.entry f).holders.get p = true := by rw [sole]; exact onePort_get_same p
    refine entry (o := .downgraded) (by simp [claimCase, priv, held]) ?_ held rfl
    have apart : h.port ≠ p := by
      have absent := (waitsIn_false_iff _ _).1 waits
      exact absent h (by rw [queue]; exact List.mem_cons_self)
    have others : (s.entry f).holders.set h.port false ≠ noPorts := fun none => by
      have same := congrArg (PerPort.get · p) none
      simp only [perPort_get_set_ne _ _ (Ne.symm apart), held] at same
      cases p <;> cases same
    rw [if_pos rfl, advance_recalls (s := s.putEntry f _) (h := h) (rest := rest) false
      (by rw [entry_putEntry_same]; exact queue) (.inr (by rw [entry_putEntry_same]; exact ⟨rfl, headMode, others⟩)),
      ensureRecall_inBeing (by rw [entry_putEntry_same]; exact field)]
    rfl
  · subst mode
    have held : (s.entry f).holders.get p = true := by rw [sole]; exact onePort_get_same p
    have absent := (waitsIn_false_iff _ _).1 waits
    let s1 := s.putEntry f { s.entry f with state := .shared }
    have edited : Effect f s s1 { s.entry f with state := .shared } s.unit s.recalls s.deferred s.poolFree :=
      effect_putEntry_sameHolders s rfl
    have run : RunGranted f (s.entry f).queue false s1 (s1.advance false f) := by
      have all := @runGranted_advance f false s1
      rw [edited.entry] at all
      refine all some (.inr rfl) modes (fun w hw => ?_) once ?_
      · show (s.entry f).holders.get w.port = false
        rw [sole]
        rw [onePort_get]
        exact decide_eq_false (absent w hw)
      · unfold RecallAlone
        rw [edited.entry]
        exact .inr alone
    let t := s1.advance false f
    have taken := exec_claim_taken hready h0 hf h1 h2 waits (o := .downgraded) (by simp [claimCase, priv, held])
      (t := t) (if_pos rfl)
    have holders : ∀ q, (t.entry f).holders.get q = (decide (q = p) || waitsIn (s.entry f).queue q) := fun q => by
      rw [run.holders, edited.entry, ← onePort_get]
      exact congrArg (fun ps : PortSet => ps.get q || _) sole
    have unit : t.unit p = s.unit p := by rw [run.units p waits, edited.units]
    have words : claimWords t p .ok f .downgraded tag 0 false = _ :=
      claimWords_taken (m := .shared) (heldMode_of_held (by rw [holders]; simp) (by rw [run.entry]; rfl))
        (congrArg PortUnit.waiting unit) (run.poolFree.trans (by rw [edited.poolFree]))
    refine ⟨_, taken, ?_, ?_, fun w hw => ?_, ?_, ?_, fun i => ?_, ?_, fun g apart => ?_, fun q apart none => ?_⟩
    · rw [answered_entry, run.entry, edited.entry]
    · exact holders
    · rw [answered_unit_ne _ _ _ (absent w hw), run.granted w hw, edited.units]
      rfl
    · rw [answered_unit_same, unit, words]
      rfl
    · exact run.poolFree.trans (by rw [edited.poolFree])
    · refine (congrArg (fun v : Vector (Option RecallRec) 8 => v.get i) run.recalls).trans ?_
      rw [recallsWithout_get, edited.entry, edited.recalls]
    · exact run.deferred.trans (by rw [deferredWithout_eq, edited.entry, edited.deferred])
    · rw [answered_entry, run.others g apart, edited.others g apart]
    · rw [answered_unit_ne _ _ _ apart, run.units q none, edited.units]
  · have alike : takenEntry (s.entry f) p m .held = s.entry f := rfl
    have case : claimCase (s.entry f) p m = .take .held := by
      cases m <;> simp [claimCase, state, heldState, held]
    have same := entry case (if_neg (by decide)) held state
    rwa [alike, putEntry_same wf] at same

/-! ### A claim left waiting (R25) -/

section Queued

variable {p : Port} {f : Nat} {m : Mode} {tag : BitVec 8}

/-- The entry with a claim at the tail of its queue. -/
def Entry.joined (e : Entry) (p : Port) (m : Mode) (tag : BitVec 8) (seq : BitVec 64) : Entry :=
  { e with queue := e.queue ++ [⟨p, m, tag, seq⟩] }

/-- The part with a claim in the queue, before promotion and advancement. -/
def claimJoined (s : State) (p : Port) (f : Nat) (m : Mode) (tag : BitVec 8) : State :=
  (s.takeRecord p).putEntry f (Entry.joined (s.entry f) p m tag s.arrival)

theorem exec_claim_waits {s : State} (hready : Ready s p) (h0 : s.arg p 0 = f) (hf : f < s.frames)
    (h1 : s.arg p 1 = modeCode m) (h2 : s.arg p 2 = tag.toNat) (waits : waitsIn (s.entry f).queue p = false)
    (room : 0 < s.poolFree) (few : (s.unit p).waiting < 8) (must : MustWait (s.entry f) p m) :
    exec (.claim p) s = .next ((answered s p 0x10 (s.unit p).results).queueClaim p f m tag) := by
  obtain ⟨case, state⟩ := claimCase_wait must
  rw [exec_claim hready h0 hf h1 h2, ownClaim_case _ (by rw [answered_entry]; exact state)
    (by rw [answered_entry]; exact waits), answered_entry, case]
  have pool : (answered s p 0x10 (s.unit p).results).poolFree = s.poolFree := rfl
  simp only [pool, answered_waiting, if_neg (Nat.pos_iff_ne_zero.1 room), if_neg (Nat.not_le.2 few)]

theorem scrubRoom_answered (s : State) (p : Port) (code : Word) (r : Words4) :
    scrubRoom (answered s p code r) = scrubRoom s := rfl

/-- A claim that promotes no frame, whether advancement runs after it or not. -/
theorem queueClaim_unpromoted {s : State} {code : Word} {r : Words4} {t : State}
    (stays : ((s.entry f).state == .uninitialized && scrubRoom s) = false)
    (left : (if (s.entry f).queue.isEmpty then (claimJoined s p f m tag).advance false f
      else claimJoined s p f m tag) = t) :
    (answered s p code r).queueClaim p f m tag =
      answered t p code (claimWords t p .pending f .queued tag ((s.entry f).queue.length + 1) false) := by
  have arrival : (answered s p code r).arrival = s.arrival := rfl
  have joined := putEntry_answered (s.takeRecord p) p code r f (Entry.joined (s.entry f) p m tag s.arrival)
  simp only [State.queueClaim, answered_entry, takeRecord_answered, scrubRoom_answered, stays, Bool.false_eq_true,
    if_false, arrival]
  rw [← left]
  split
  · exact (congrArg (fun u : State => (u.advance false f).claimReply p .pending f .queued tag _ false) joined).trans
      (by rw [advance_answered, claimReply_answered]; rfl)
  · exact (congrArg (fun u : State => u.claimReply p .pending f .queued tag _ false) joined).trans
      (by rw [claimReply_answered]; rfl)

/-- A claim that promotes its frame while the engine is ACTIVE: the frame is SCRUBBING, so advancement ends at once
(R34 step 1, R134). -/
theorem queueClaim_promoted {s : State} {code : Word} {r : Words4} {t : State} (active : s.scrubQueue ≠ [])
    (promoted : ((s.entry f).state == .uninitialized && scrubRoom s) = true)
    (left : (claimJoined s p f m tag).appendScrub f .promotion none = t) :
    (answered s p code r).queueClaim p f m tag =
      answered t p code (claimWords t p .pending f .queued tag ((s.entry f).queue.length + 1) true) := by
  have arrival : (answered s p code r).arrival = s.arrival := rfl
  have joined := putEntry_answered (s.takeRecord p) p code r f (Entry.joined (s.entry f) p m tag s.arrival)
  have appended : (((answered (s.takeRecord p) p code r).putEntry f
      (Entry.joined (s.entry f) p m tag s.arrival)).appendScrub f .promotion none) = answered t p code r := by
    rw [joined, ← left]
    exact appendScrub_answered _ p code r f .promotion none (.inl active)
  have scrubbing : (t.entry f).state = .scrubbing := by
    rw [← left, appendScrub_entry, if_pos rfl]
  have still : t.advance false f = t :=
    advance_of_unused false (by rw [scrubbing]; decide) (by rw [scrubbing]; rfl)
  simp only [State.queueClaim, answered_entry, takeRecord_answered, scrubRoom_answered, promoted, if_true, arrival]
  split
  · exact (congrArg (fun u : State => (u.advance false f).claimReply p .pending f .queued tag _ true) appended).trans
      (by rw [advance_answered, still, claimReply_answered])
  · exact (congrArg (fun u : State => u.claimReply p .pending f .queued tag _ true) appended).trans
      (by rw [claimReply_answered])

/-- With the engine ACTIVE a frame is appended to the scrub queue, and nothing is posted (R124). -/
theorem appendScrub_active {s : State} (f : Nat) (origin : Origin) (notify : Option Port) (active : s.scrubQueue ≠ []) :
    s.appendScrub f origin notify =
      { s.putEntry f { s.entry f with state := .scrubbing, pinned := false } with
        scrubQueue := s.scrubQueue ++ [⟨f, origin, notify⟩] } := by
  have more : s.scrubQueue.isEmpty = false := by simpa using active
  simp only [State.appendScrub, more, Bool.false_eq_true, if_false]
  rfl

/-- The result words of a claim that waits. -/
theorem claimWords_queued {t : State} {n k w pool : Nat} {promoted : Bool}
    (held : heldCode (heldMode (t.entry f) p) = k) (waiting : (t.unit p).waiting = w) (free : t.poolFree = pool) :
    claimWords t p .pending f .queued tag n promoted =
      ⟨1, pack [fFrame f, (2, k), (4, 6)], pack [fSmall tag.toNat, fSmall n, fFlag promoted],
        pack [fSmall w, fSmall pool]⟩ := by
  rw [claimWords, fHeld, held, waiting, free]
  rfl

theorem claimJoined_entry (s : State) (p : Port) (f : Nat) (m : Mode) (tag : BitVec 8) :
    (claimJoined s p f m tag).entry f = Entry.joined (s.entry f) p m tag s.arrival := entry_putEntry_same _ _ _

theorem claimJoined_unit (s : State) (p q : Port) (f : Nat) (m : Mode) (tag : BitVec 8) :
    (claimJoined s p f m tag).unit q =
      if q = p then { s.unit p with waiting := (s.unit p).waiting + 1 } else s.unit q := by
  refine (putEntry_unit_same (s := s.takeRecord p) rfl).trans ?_
  exact setUnit_unit s p q _

theorem claimJoined_waiting (s : State) (p : Port) (f : Nat) (m : Mode) (tag : BitVec 8) :
    ((claimJoined s p f m tag).unit p).waiting = (s.unit p).waiting + 1 := by
  rw [claimJoined_unit, if_pos rfl]

end Queued

/-- Settles O35: a claim behind others ends there; the first on a frame not in use meets no advancement (R34). -/
theorem claimJoinsWaitQueue : Obligations.ClaimJoinsWaitQueue := by
  intro p f m tag s hready h0 hf h1 h2 waits room few joined taken result
  have queued := exec_claim_waits hready h0 hf h1 h2 waits room few
  have answer : ∀ {k : Nat}, (s.entry f).state ≠ .free → heldCode (heldMode joined p) = k → MustWait (s.entry f) p m →
      ((s.entry f).state == .uninitialized && scrubRoom s) = false →
      (s.entry f).queue ≠ [] ∨ inUse (s.entry f).state = false →
      exec (.claim p) s = .next (answered (taken.putEntry f joined) p 0x10 (result k false)) := by
    intro k free held must stays calm
    have left : (if (s.entry f).queue.isEmpty then (claimJoined s p f m tag).advance false f
        else claimJoined s p f m tag) = claimJoined s p f m tag := by
      split
      next empty =>
        have unused : inUse (s.entry f).state = false := calm.resolve_left (not_not_intro (List.isEmpty_iff.1 empty))
        exact advance_of_unused false (by rw [claimJoined_entry]; exact free) (by rw [claimJoined_entry]; exact unused)
      next => rfl
    have words := claimWords_queued (t := claimJoined s p f m tag) (tag := tag) (n := (s.entry f).queue.length + 1)
      (promoted := false) (k := k) (pool := s.poolFree - 1) (by rw [claimJoined_entry]; exact held)
      (claimJoined_waiting s p f m tag) rfl
    refine (queued must).trans (congrArg Host.Outcome.next ((queueClaim_unpromoted stays left).trans ?_))
    rw [words]
    rfl
  have unheld : (s.entry f).holders.get p = false → heldCode (heldMode joined p) = 0 := fun none => by
    rw [heldCode_heldMode]
    exact if_pos none
  refine ⟨fun some unpinned held state => ?_, fun empty held state => ?_, fun state held full => ?_,
    fun some unpinned held state mode => ?_, fun state held active space => ?_⟩
  · have must : MustWait (s.entry f) p m := by
      rcases state with state | state | state | state
      · exact .inl ⟨state, held, unpinned⟩
      · cases m with
        | priv => exact .inr (.inl ⟨state, rfl, fun h => some h.2, unpinned⟩)
        | shared => exact .inr (.inr (.inl ⟨state, rfl, held, some⟩))
      · exact .inr (.inr (.inr (.inr (.inl state))))
      · exact .inr (.inr (.inr (.inr (.inr state))))
    have known : (s.entry f).state ≠ .free ∧ (s.entry f).state ≠ .uninitialized := by
      rcases state with state | state | state | state <;> rw [state] <;> decide
    exact answer known.1 (unheld held) must (by simp [known.2]) (.inl some)
  · have known : (s.entry f).state ≠ .free ∧ (s.entry f).state ≠ .uninitialized ∧ inUse (s.entry f).state = false := by
      rcases state with state | state <;> rw [state] <;> decide
    obtain ⟨free, swept, unused⟩ := known
    exact answer free (unheld held) (.inr (.inr (.inr (.inr state)))) (by simp [swept]) (.inr unused)
  · exact answer (by rw [state]; decide) (unheld held) (.inr (.inr (.inr (.inl state)))) (by simp [scrubRoom, full])
      (.inr (by rw [state]; rfl))
  · subst mode
    refine answer (by rw [state]; decide) ?_ (.inr (.inl ⟨state, rfl, fun h => some h.2, unpinned⟩)) (by simp [state])
      (.inl some)
    rw [heldCode_heldMode]
    simp [joined, held, state]
  · have promoted : ((s.entry f).state == .uninitialized && scrubRoom s) = true := by simp [state, scrubRoom, space]
    let t := (claimJoined s p f m tag).appendScrub f .promotion none
    have eq : t = { (claimJoined s p f m tag).putEntry f
        { (claimJoined s p f m tag).entry f with state := .scrubbing, pinned := false } with
          scrubQueue := s.scrubQueue ++ [⟨f, .promotion, none⟩] } :=
      appendScrub_active (s := claimJoined s p f m tag) f .promotion none active
    have entry : t.entry f = { joined with state := .scrubbing, pinned := false } := by
      rw [appendScrub_entry, if_pos rfl, claimJoined_entry]
      rfl
    have unit : (t.unit p).waiting = (s.unit p).waiting + 1 := by
      rw [eq]
      exact (congrArg PortUnit.waiting (putEntry_unit_same rfl)).trans (claimJoined_waiting s p f m tag)
    have words := claimWords_queued (t := t) (tag := tag) (n := (s.entry f).queue.length + 1) (promoted := true)
      (k := 0) (pool := s.poolFree - 1) (by rw [heldCode_heldMode, entry]; exact if_pos held) unit (by rw [eq]; rfl)
    have done := queueClaim_promoted (code := 0x10) (r := (s.unit p).results) active promoted
      (show (claimJoined s p f m tag).appendScrub f .promotion none = t from rfl)
    refine ⟨_, (queued (.inr (.inr (.inr (.inl state))))).trans (congrArg Host.Outcome.next done), entry, ?_, ?_, ?_,
      fun g apart => ?_, ?_, ?_, ?_⟩
    · exact congrArg State.scrubQueue eq
    · refine (congrArg State.uninitCount eq).trans ?_
      show countChange (((claimJoined s p f m tag).entry f).state == .uninitialized) _
        (countChange ((s.entry f).state == .uninitialized) _ s.uninitCount) = _
      rw [claimJoined_entry]
      rw [Entry.joined, state]
      rfl
    · rw [answered_unit_same, words]
    · rw [answered_entry, appendScrub_entry, if_neg apart]
      exact entry_putEntry_ne _ _ apart
    · exact (congrArg State.memPort eq :)
    · exact (congrArg State.scrubRequest eq :)
    · exact (congrArg State.memory eq :)

/-! ### A claim that becomes the head of a held frame (R35) -/

theorem effect_claimJoined (s : State) (p : Port) (f : Nat) (m : Mode) (tag : BitVec 8) :
    Effect f s (claimJoined s p f m tag) (Entry.joined (s.entry f) p m tag s.arrival)
      (fun q => if q = p then { s.unit p with waiting := (s.unit p).waiting + 1 } else s.unit q)
      s.recalls s.deferred (s.poolFree - 1) :=
  ⟨claimJoined_entry s p f m tag, fun _ apart => entry_putEntry_ne _ _ apart,
    fun q => claimJoined_unit s p q f m tag, rfl, rfl, rfl⟩

/-- Settles O36: the claim is alone in the queue, and advancement ensures a recall for it. -/
theorem claimStartsRecall : Obligations.ClaimStartsRecall := by
  intro p f m tag s hready h0 hf h1 h2 room few empty unpinned field barred
  have waits : waitsIn (s.entry f).queue p = false := by rw [empty]; rfl
  have must : MustWait (s.entry f) p m := by
    rcases barred with ⟨state, held⟩ | ⟨state, mode, others⟩
    · exact .inl ⟨state, held, unpinned⟩
    · refine .inr (.inl ⟨state, mode, fun sole => others ?_, unpinned⟩)
      rw [sole.1, onePort_set_false]
  have stays : ((s.entry f).state == .uninitialized && scrubRoom s) = false := by
    rcases barred with ⟨state, -⟩ | ⟨state, -⟩ <;> simp [state]
  let s1 := claimJoined s p f m tag
  have first := effect_claimJoined s p f m tag
  have entry : s1.entry f = { s.entry f with queue := [⟨p, m, tag, s.arrival⟩] } := by
    rw [first.entry, Entry.joined, empty, List.nil_append]
  have queue : (s1.entry f).queue = [⟨p, m, tag, s.arrival⟩] := by rw [entry]
  have advanced : s1.advance false f = s1.ensureRecall f := by
    refine advance_recalls false queue ?_
    rw [entry]
    exact barred.imp And.left id
  have done := (exec_claim_waits hready h0 hf h1 h2 waits room few must).trans
    (congrArg Host.Outcome.next (queueClaim_unpromoted stays
      (show _ = s1.ensureRecall f from (if_pos (by rw [empty]; rfl)).trans advanced)))
  have none : (s1.entry f).recallField = .none := by rw [entry]; exact field
  have other : ∀ q, q ≠ p → s1.unit q = s.unit q := fun q apart => (first.units q).trans (if_neg apart)
  refine ⟨fun i free used => ?_, fun older newer full list before after => ?_⟩
  · rw [ensureRecall_starts none free used] at done
    have started := effect_startRecall i queue
    refine ⟨_, done, ?_, ?_, fun q apart => ?_, fun g apart => ?_, started.deferred, ?_, ?_⟩
    · rw [answered_entry, started.entry, entry]
    · refine (started.recalls : _ = _).trans ?_
      rw [entry, first.recalls]
      rfl
    · rw [answered_unit_ne _ _ _ apart, started.units, entry, other q apart, perPort_get_set_ne _ _ apart]
      rfl
    · rw [answered_entry, started.others g apart, first.others g apart]
    · exact (congrArg State.memory (directoryChange_startRecall s1 f i).1 :)
    · rw [answered_unit_same]
      rfl
  · rw [ensureRecall_defers none full] at done
    have deferred := effect_deferRecall queue
    refine ⟨_, done, ?_, ?_, deferred.recalls, fun q apart => ?_, fun g apart => ?_, ?_⟩
    · rw [answered_entry, deferred.entry, entry]
    · refine (deferred.deferred : _ = _).trans ?_
      rw [first.deferred, list]
      exact placeDeferred_between before after
    · rw [answered_unit_ne _ _ _ apart, deferred.units, other q apart]
    · rw [answered_entry, deferred.others g apart, first.others g apart]
    · rw [answered_unit_same]
      rfl

end Sys2Proof.Proofs
end

section
/-! PROOFS. CANCEL: O38. -/

namespace Sys2Proof.Proofs
set_option Elab.async false

open Sys2Proof.Machine Sys2Proof.Safety Sys2Proof.Laws

/-! ### A record freed to the deferred list (R58) -/

/-- A freed record has gone to the deferred frame `d`, whose head `h` waits for the others to release; the deferred
frames before it had no need of a recall. -/
structure RecordFed (i : Fin 8) (dropped : List Deferred) (d : Deferred) (kept : List Deferred) (h : WaitRec)
    (s t : State) : Prop where
  served : t.entry d.frame = { s.entry d.frame with recallField := .active i }
  needless : ∀ x ∈ dropped, t.entry x.frame = { s.entry x.frame with recallField := .none }
  others : ∀ g, g ≠ d.frame → (∀ x ∈ dropped, g ≠ x.frame) → t.entry g = s.entry g
  units : ∀ q, t.unit q =
    if ((s.entry d.frame).holders.set h.port false).get q = true then
      postUnit (s.unit q) (.recallNotice d.frame h.port h.mode s.recallTimeout) else s.unit q
  recalls : t.recalls = s.recalls.set i (some ⟨d.frame, h.port, h.mode, (s.entry d.frame).holders.set h.port false,
    s.now + s.recallTimeout * 10⟩)
  deferred : t.deferred = kept
  poolFree : t.poolFree = s.poolFree

theorem recordFed_feedDeferred {i : Fin 8} (dropped : List Deferred) {d : Deferred} {kept : List Deferred} {h : WaitRec}
    {more : List WaitRec} {s : State} (needless : ∀ x ∈ dropped, needsRecall (s.entry x.frame) = false)
    (needs : needsRecall (s.entry d.frame) = true) (queue : (s.entry d.frame).queue = h :: more) :
    RecordFed i dropped d kept h s (State.feedDeferred i (dropped ++ d :: kept) s) := by
  induction dropped generalizing s with
  | nil =>
    have started := effect_startRecall (s := { s with deferred := kept }) i queue
    rw [List.nil_append, feedDeferred_needed needs]
    exact ⟨started.entry, fun x hx => (nomatch hx), fun g apart _ => started.others g apart, started.units,
      started.recalls, started.deferred, started.poolFree⟩
  | cons x rest ih =>
    have first := needless x List.mem_cons_self
    have apart : d.frame ≠ x.frame := fun same => by simp [← same, needs] at first
    have edited := effect_putEntry_sameHolders s (f := x.frame) (e := { s.entry x.frame with recallField := .none }) rfl
    have entry : ∀ g, (s.putEntry x.frame { s.entry x.frame with recallField := .none }).entry g =
        if g = x.frame then { s.entry x.frame with recallField := .none } else s.entry g :=
      fun g => entry_putEntry s x.frame g _
    have same := edited.others d.frame apart
    rw [List.cons_append, feedDeferred_dropped first]
    have fed := ih (s := s.putEntry x.frame { s.entry x.frame with recallField := .none })
      (fun y hy => by
        rw [entry]
        split
        next => exact first
        next => exact needless y (List.mem_cons_of_mem x hy))
      (by rw [same]; exact needs) (by rw [same]; exact queue)
    refine ⟨by rw [fed.served, same], fun y hy => ?_, fun g away skipped => ?_, fun q => ?_, ?_, fed.deferred,
      fed.poolFree⟩
    · by_cases again : ∃ z ∈ rest, y.frame = z.frame
      · obtain ⟨z, hz, alike⟩ := again
        rw [alike, fed.needless z hz, entry]
        by_cases twice : z.frame = x.frame
        · rw [if_pos twice, twice]
        · rw [if_neg twice]
      · rcases List.mem_cons.1 hy with rfl | hy
        · rw [fed.others _ (Ne.symm apart) fun z hz alike => again ⟨z, hz, alike⟩, edited.entry]
        · exact absurd ⟨y, hy, rfl⟩ again
    · rw [fed.others g away fun z hz => skipped z (List.mem_cons_of_mem x hz), edited.others g (skipped x List.mem_cons_self)]
    · rw [fed.units, same, edited.units]
      rfl
    · rw [fed.recalls, same]
      rfl

/-! ### A claim leaves the queue (R47) -/

section Cancel

variable {p : Port} {f : Nat} {s : State}

/-- The part with one claim of a port out of a frame's queue. -/
def unqueued (s : State) (f : Nat) (p : Port) (queue : List WaitRec) : State :=
  (s.putEntry f { s.entry f with queue := queue }).returnRecord p

theorem effect_unqueued (s : State) (f : Nat) (p : Port) (queue : List WaitRec) :
    Effect f s (unqueued s f p queue) { s.entry f with queue := queue }
      (fun q => if q = p then { s.unit q with waiting := (s.unit q).waiting - 1 } else s.unit q)
      s.recalls s.deferred (s.poolFree + 1) := by
  have edited := effect_putEntry_sameHolders s (f := f) (e := { s.entry f with queue := queue }) rfl
  refine (edited.trans (effect_returnRecord _ f p)).congr edited.entry (fun q => ?_) rfl rfl rfl
  rw [edited.units]

theorem unqueued_eq (s : State) (f : Nat) (p : Port) (queue : List WaitRec) :
    unqueued s f p queue =
      { (s.putEntry f { s.entry f with queue := queue }).setUnit p
          { s.unit p with waiting := (s.unit p).waiting - 1 } with poolFree := s.poolFree + 1 } := by
  have unit : (s.putEntry f { s.entry f with queue := queue }).unit p = s.unit p := putEntry_unit_same (by rfl)
  rw [unqueued, State.returnRecord, unit]
  rfl

theorem withdraw_eq (s : State) (f : Nat) (p : Port) {rest : List WaitRec}
    (kept : (s.entry f).queue.filter (fun w => w.port != p) = rest) :
    s.withdraw f p =
      if isHead (s.entry f).queue p then ((unqueued s f p rest).dropRecall f).advance false f
      else unqueued s f p rest := by
  subst kept
  rfl

/-- The queue without the claim of one port. -/
theorem filter_claim {before after : List WaitRec} {w : WaitRec} (own : w.port = p) (ahead : ∀ x ∈ before, x.port ≠ p)
    (behind : ∀ x ∈ after, x.port ≠ p) : (before ++ w :: after).filter (fun w => w.port != p) = before ++ after := by
  rw [List.filter_append, List.filter_cons_of_neg (by simp [own]), List.filter_eq_self.2 (by simpa using ahead),
    List.filter_eq_self.2 (by simpa using behind)]

/-- A claim that is not the head leaves the queue, and that is all (R48). -/
theorem withdraw_behind {h w : WaitRec} {before after : List WaitRec} (queue : (s.entry f).queue = h :: before ++ w :: after)
    (own : w.port = p) (apart : h.port ≠ p) (ahead : ∀ x ∈ before, x.port ≠ p) (behind : ∀ x ∈ after, x.port ≠ p) :
    s.withdraw f p = unqueued s f p (h :: before ++ after) := by
  have kept := filter_claim (before := h :: before) own
    (fun x hx => (List.mem_cons.1 hx).elim (fun same => same ▸ apart) (ahead x)) behind
  have head : isHead (s.entry f).queue p = false := by
    rw [queue]
    exact beq_false_of_ne apart
  rw [withdraw_eq s f p ((congrArg _ queue).trans kept), head]
  rfl

/-- With the head its recall goes, and the queue behind is served (R48). -/
theorem withdraw_head {w : WaitRec} {rest : List WaitRec} (queue : (s.entry f).queue = w :: rest) (own : w.port = p)
    (behind : ∀ x ∈ rest, x.port ≠ p) :
    s.withdraw f p = ((unqueued s f p rest).dropRecall f).advance false f := by
  have kept : (w :: rest).filter (fun w => w.port != p) = rest := filter_claim (before := []) own (by simp) behind
  have head : isHead (s.entry f).queue p = true := by
    rw [queue]
    exact beq_iff_eq.2 own
  rw [withdraw_eq s f p ((congrArg _ queue).trans kept), head, if_pos rfl]

/-- A CANCEL that finds its claim is answered from the state that the withdrawal leaves. -/
theorem exec_cancel (hready : Ready s p) (h0 : s.arg p 0 = f) (hf : f < s.frames) {w : WaitRec} {t : State}
    {n : Nat} (found : (s.entry f).queue.find? (fun w => w.port == p) = some w) (left : s.withdraw f p = t)
    (waiting : (t.unit p).waiting = n) :
    exec (.cancel p) s = .next (answered t p 0x11
      ⟨0, pack [fFrame f, fMode w.mode, fFlag (isHead (s.entry f).queue p)], BitVec.ofNat 32 w.tag.toNat,
        pack [fSmall n]⟩) := by
  have tag : pack [fSmall w.tag.toNat] = BitVec.ofNat 32 w.tag.toNat := pack_single w.tag.isLt
  refine congrArg Host.Outcome.next ((issue_ready hready (frameArgs_some h0 hf)).trans ?_)
  simp only [ownCancel, answered_entry, found, withdraw_answered, reply_answered, answered_waiting, left, waiting, tag]
  rfl

/-- CANCEL of the head. -/
theorem exec_cancel_head (hready : Ready s p) (h0 : s.arg p 0 = f) (hf : f < s.frames) {w : WaitRec}
    {rest : List WaitRec} (queue : (s.entry f).queue = w :: rest) (own : w.port = p) (behind : ∀ x ∈ rest, x.port ≠ p)
    {t : State} {n : Nat} (left : ((unqueued s f p rest).dropRecall f).advance false f = t)
    (waiting : (t.unit p).waiting = n) :
    exec (.cancel p) s = .next (answered t p 0x11
      ⟨0, pack [fFrame f, fMode w.mode, fFlag true], BitVec.ofNat 32 w.tag.toNat, pack [fSmall n]⟩) := by
  have head : isHead (s.entry f).queue p = true := by
    rw [queue]
    exact beq_iff_eq.2 own
  have found : (s.entry f).queue.find? (fun w => w.port == p) = some w := by
    rw [queue, List.find?_cons_of_pos (by simp [own])]
  have done := exec_cancel hready h0 hf found ((withdraw_head queue own behind).trans left) waiting
  rwa [head] at done

/-- The part with the head out of the queue and its recall gone, no deferred frame being served. -/
theorem effect_unqueued_dropRecall (rest : List WaitRec) (alone : RecallAlone s f) :
    Effect f s ((unqueued s f p rest).dropRecall f) { s.entry f with queue := rest, recallField := .none }
      (fun q => if q = p then { s.unit q with waiting := (s.unit q).waiting - 1 } else s.unit q)
      (recallsWithout (s.entry f).recallField s.recalls) (deferredWithout (s.entry f).recallField f s.deferred)
      (s.poolFree + 1) := by
  have out := effect_unqueued s f p rest
  have gone := effect_dropRecall (s := unqueued s f p rest) (f := f) (by unfold RecallAlone; rw [out.entry]; exact alone)
  refine (out.trans gone).congr (by rw [out.entry]) out.units ?_ ?_ out.poolFree
  · rw [out.entry, out.recalls]
  · rw [out.entry, out.deferred]

theorem unqueued_dropRecall_clock (s : State) (f : Nat) (p : Port) (rest : List WaitRec) :
    ((unqueued s f p rest).dropRecall f).now = s.now ∧
      ((unqueued s f p rest).dropRecall f).recallTimeout = s.recallTimeout :=
  have change := (directoryChange_dropRecall (unqueued s f p rest) f).1
  ⟨(congrArg State.now change :), (congrArg State.recallTimeout change :)⟩

/-- The part with the head out of the queue and its recall record freed, before the deferred list is served. -/
def recordFreed (s : State) (f : Nat) (p : Port) (i : Fin 8) (rest : List WaitRec) : State :=
  ({ unqueued s f p rest with recalls := s.recalls.set i none } : State).putEntry f
    { (unqueued s f p rest).entry f with recallField := .none }

theorem effect_recordFreed (s : State) (f : Nat) (p : Port) (i : Fin 8) (rest : List WaitRec) :
    Effect f s (recordFreed s f p i rest) { s.entry f with queue := rest, recallField := .none }
      (fun q => if q = p then { s.unit q with waiting := (s.unit q).waiting - 1 } else s.unit q)
      (s.recalls.set i none) s.deferred (s.poolFree + 1) := by
  have out := effect_unqueued s f p rest
  have freed := out.trans (effect_setRecalls (unqueued s f p rest) f (s.recalls.set i none))
  have edited := effect_putEntry_sameHolders ({ unqueued s f p rest with recalls := s.recalls.set i none } : State)
    (f := f) (e := { (unqueued s f p rest).entry f with recallField := .none }) rfl
  exact (freed.trans edited).congr (by rw [out.entry]) out.units rfl rfl rfl

/-- With the head its active recall goes, and the deferred list is served before the queue behind (R48, R58). -/
theorem unqueued_dropRecall_active {i : Fin 8} (rest : List WaitRec) (active : (s.entry f).recallField = .active i) :
    (unqueued s f p rest).dropRecall f = State.feedDeferred i s.deferred (recordFreed s f p i rest) :=
  dropRecall_active (by rw [(effect_unqueued s f p rest).entry]; exact active)

theorem postUnit_waiting (u : PortUnit) (r : EventRecord) : (postUnit u r).waiting = u.waiting := by
  rw [postUnit_touches]

theorem needsRecall_of {e : Entry} {h : WaitRec} {more : List WaitRec} (used : inUse e.state = true)
    (queue : e.queue = h :: more) (others : e.holders.set h.port false ≠ noPorts) : needsRecall e = true := by
  have asked : toReleaseOf e = e.holders.set h.port false := by rw [toReleaseOf, queue]
  simp [needsRecall, used, queue, asked, setIsEmpty, others]

/-- The head has left the queue, and the record of its recall has gone to the deferred frame `d` with the head `h`, past
deferred frames that need none (R48, R58, R66). -/
structure HeadOutFed (f : Nat) (p : Port) (i : Fin 8) (rest : List WaitRec) (dropped : List Deferred) (d : Deferred)
    (kept : List Deferred) (h : WaitRec) (s t : State) : Prop where
  entry : t.entry f = { s.entry f with queue := rest, recallField := .none }
  served : t.entry d.frame = { s.entry d.frame with recallField := .active i }
  needless : ∀ x ∈ dropped, t.entry x.frame = { s.entry x.frame with recallField := .none }
  others : ∀ g, g ≠ f → g ≠ d.frame → (∀ x ∈ dropped, g ≠ x.frame) → t.entry g = s.entry g
  recalls : t.recalls = s.recalls.set i (some ⟨d.frame, h.port, h.mode, (s.entry d.frame).holders.set h.port false,
    s.now + s.recallTimeout * 10⟩)
  deferred : t.deferred = kept
  units : ∀ q, q ≠ p → t.unit q =
    if ((s.entry d.frame).holders.set h.port false).get q = true then
      postUnit (s.unit q) (.recallNotice d.frame h.port h.mode s.recallTimeout) else s.unit q
  waiting : (t.unit p).waiting = (s.unit p).waiting - 1
  poolFree : t.poolFree = s.poolFree + 1

theorem headOutFed {i : Fin 8} (rest : List WaitRec) {dropped : List Deferred} {d : Deferred} {kept : List Deferred}
    {h : WaitRec} {more : List WaitRec} (active : (s.entry f).recallField = .active i)
    (list : s.deferred = dropped ++ d :: kept)
    (needless : ∀ x ∈ dropped, x.frame ≠ f ∧ needsRecall (s.entry x.frame) = false) (apart : d.frame ≠ f)
    (used : inUse (s.entry d.frame).state = true) (queue : (s.entry d.frame).queue = h :: more)
    (others : (s.entry d.frame).holders.set h.port false ≠ noPorts) :
    HeadOutFed f p i rest dropped d kept h s ((unqueued s f p rest).dropRecall f) := by
  have freed := effect_recordFreed s f p i rest
  have same := freed.others d.frame apart
  have fed := recordFed_feedDeferred (i := i) dropped (d := d) (kept := kept) (s := recordFreed s f p i rest)
    (fun x hx => by rw [freed.others _ (needless x hx).1]; exact (needless x hx).2)
    (by rw [same]; exact needsRecall_of used queue others) (by rw [same]; exact queue)
  rw [unqueued_dropRecall_active rest active, list]
  refine ⟨?_, ?_, fun x hx => ?_, fun g away apart skipped => ?_, ?_, fed.deferred, fun q other => ?_, ?_,
    fed.poolFree.trans freed.poolFree⟩
  · exact (fed.others f (Ne.symm apart) fun x hx => Ne.symm (needless x hx).1).trans freed.entry
  · rw [fed.served, same]
  · rw [fed.needless x hx, freed.others _ (needless x hx).1]
  · rw [fed.others g apart skipped, freed.others g away]
  · rw [fed.recalls, same, freed.recalls, Vector.set_set]
    rfl
  · rw [fed.units, same, freed.units, if_neg other]
    rfl
  · rw [fed.units, freed.units, if_pos rfl]
    split
    · rw [postUnit_waiting]
    · rfl

end Cancel

/-- Settles O38: with the head the recall goes first (`effect_unqueued_dropRecall`, `headOutFed`), then advancement runs
on the queue behind. -/
theorem cancelWithdrawsClaim : Obligations.CancelWithdrawsClaim := by
  intro p f s hready h0 hf result withdrawn
  have waitingOf : ∀ {t : State}, t.unit p = { s.unit p with waiting := (s.unit p).waiting - 1 } →
      (t.unit p).waiting = (s.unit p).waiting - 1 := fun h => by rw [h]
  refine ⟨fun absent => ?_, fun h before w after queue own apart ahead behind => ?_,
    fun w rest queue own behind field calm => ?_, fun w queue own field => ?_, fun w i queue own field empty => ?_,
    fun w i dropped d kept h more queue own field list needless apart used dqueue others => ?_,
    fun w run queue own some modes once state alone => ?_, fun w x rest queue own behind barred others => ⟨?_, ?_, ?_⟩⟩
  · have missing : (s.entry f).queue.find? (fun w => w.port == p) = none :=
      List.find?_eq_none.2 fun w hw => by simpa using (waitsIn_false_iff _ _).1 absent w hw
    refine congrArg Host.Outcome.next ((issue_ready hready (frameArgs_some h0 hf)).trans ?_)
    simp only [ownCancel, answered_entry, missing, refuse_answered]
    rfl
  · have found : (s.entry f).queue.find? (fun w => w.port == p) = some w := by
      rw [queue, List.find?_append, List.find?_eq_none.2, Option.none_or, List.find?_cons_of_pos (by simp [own])]
      simpa [apart] using ahead
    have head : isHead (s.entry f).queue p = false := by
      rw [queue]
      exact beq_false_of_ne apart
    have out := effect_unqueued s f p (h :: before ++ after)
    rw [exec_cancel hready h0 hf found (withdraw_behind queue own apart ahead behind)
      (waitingOf ((out.units p).trans (if_pos rfl))), head, unqueued_eq]
  · have out := effect_unqueued s f p rest
    have entry := out.entry
    have left : ((unqueued s f p rest).dropRecall f).advance false f = unqueued s f p rest := by
      rw [dropRecall_none (by rw [entry]; exact field)]
      rcases calm with empty | state
      · exact advance_of_queue_nil false (by rw [entry]; exact empty)
      · refine advance_of_unused false ?_ ?_
        · rw [entry]
          rcases state with state | state | state <;> simp [state]
        · rw [entry]
          rcases state with state | state | state <;> simp [state, inUse]
    have same : ({ s.entry f with queue := rest } : Entry) = { s.entry f with queue := rest, recallField := .none } := by
      rw [← field]
    rw [exec_cancel_head hready h0 hf queue own behind left (waitingOf ((out.units p).trans (if_pos rfl))),
      unqueued_eq, same]
  · have gone := effect_unqueued_dropRecall (s := s) (f := f) (p := p) [] (.inr (.inl field))
    have left := advance_of_queue_nil (s := (unqueued s f p []).dropRecall f) false (by rw [gone.entry])
    have unit := (gone.units p).trans (if_pos rfl)
    have done := exec_cancel_head hready h0 hf queue own (by simp) left (waitingOf unit)
    rw [field] at gone
    refine ⟨_, done, gone.entry, gone.deferred, gone.recalls, gone.poolFree, ?_, gone.others, fun q apart => ?_⟩
    · rw [answered_unit_same]
    · rw [answered_unit_ne _ _ _ apart, gone.units, if_neg apart]
  · have gone := effect_unqueued_dropRecall (s := s) (f := f) (p := p) [] (.inr (.inr ⟨i, field, empty⟩))
    have left := advance_of_queue_nil (s := (unqueued s f p []).dropRecall f) false (by rw [gone.entry])
    have unit := (gone.units p).trans (if_pos rfl)
    have done := exec_cancel_head hready h0 hf queue own (by simp) left (waitingOf unit)
    rw [field] at gone
    refine ⟨_, done, gone.entry, gone.recalls, gone.poolFree, ?_, ?_, gone.others, fun q apart => ?_,
      gone.deferred.trans empty, ?_⟩
    · rw [answered_unit_same, unit]
    · rw [answered_unit_same]
    · rw [answered_unit_ne _ _ _ apart, gone.units, if_neg apart]
    · exact (congrArg State.memory (directoryChange_dropRecall (unqueued s f p []) f).1 :)
  · have fed := headOutFed (p := p) [] field list needless apart used dqueue others
    have left := advance_of_queue_nil (s := (unqueued s f p []).dropRecall f) false (by rw [fed.entry])
    refine ⟨_, exec_cancel_head hready h0 hf queue own (by simp) left fed.waiting, fed.entry, fed.served, fed.recalls,
      fed.deferred, fed.needless, fed.others, fun q other => ?_, ?_, fed.poolFree⟩
    · rw [answered_unit_ne _ _ _ other, fed.units q other]
    · rw [answered_unit_same]
  · have gone := effect_unqueued_dropRecall (s := s) (f := f) (p := p) run (.inr alone)
    obtain ⟨fresh, once⟩ := List.nodup_cons.1 (by rw [queue, List.map_cons] at once; exact once)
    have behind : ∀ x ∈ run, x.port ≠ p := fun x hx same =>
      fresh (own.trans same.symm ▸ List.mem_map_of_mem hx)
    have granted : RunGranted f run false ((unqueued s f p run).dropRecall f)
        (((unqueued s f p run).dropRecall f).advance false f) := by
      have all := @runGranted_advance f false ((unqueued s f p run).dropRecall f)
      unfold RecallAlone at all
      rw [gone.entry] at all
      exact all some (.inr state) (fun x hx => (modes x hx).1) (fun x hx => (modes x hx).2) once (.inl rfl)
    have unit : (((unqueued s f p run).dropRecall f).advance false f).unit p =
        { s.unit p with waiting := (s.unit p).waiting - 1 } := by
      rw [granted.units p ((waitsIn_false_iff _ _).2 behind), gone.units, if_pos rfl]
    refine ⟨_, exec_cancel_head hready h0 hf queue own behind rfl (waitingOf unit), ?_, fun q => ?_, fun x hx => ?_,
      fun j => ?_, ?_, ?_, fun g apart => ?_, fun q apart none => ?_⟩
    · rw [answered_entry, granted.entry, gone.entry, ← state]
    · rw [answered_entry, granted.holders, gone.entry]
    · rw [answered_unit_ne _ _ _ (behind x hx), granted.granted x hx, gone.units, if_neg (behind x hx)]
      rfl
    · refine (congrArg (fun v : Vector (Option RecallRec) 8 => v.get j) granted.recalls).trans ?_
      rw [gone.entry, gone.recalls]
      show (recallsWithout (s.entry f).recallField s.recalls).get j = _
      exact recallsWithout_get _ _ _
    · exact granted.poolFree.trans (by rw [gone.poolFree])
    · rw [answered_unit_same]
    · rw [answered_entry, granted.others g apart, gone.others g apart]
    · rw [answered_unit_ne _ _ _ apart, granted.units q none, gone.units, if_neg apart]
  · intro i j field empty lowest used
    have gone := effect_unqueued_dropRecall (s := s) (f := f) (p := p) (x :: rest) (.inr (.inr ⟨i, field, empty⟩))
    rw [field] at gone
    obtain ⟨now, timeout⟩ := unqueued_dropRecall_clock s f p (x :: rest)
    have queued : (((unqueued s f p (x :: rest)).dropRecall f).entry f).queue = x :: rest := by rw [gone.entry]
    have started := effect_startRecall j queued
    have left : ((unqueued s f p (x :: rest)).dropRecall f).advance false f =
        ((unqueued s f p (x :: rest)).dropRecall f).startRecall f j := by
      rw [advance_recalls false queued (by rw [gone.entry]; exact barred.imp id fun h => ⟨h.1, h.2, others⟩)]
      refine ensureRecall_starts (by rw [gone.entry]) ?_ fun k below => ?_
      · rw [gone.recalls, recallsWithout, recalls_get_set]
        rcases lowest with same | free
        · rw [if_pos same]
        · split
          next => rfl
          next => exact free
      · obtain ⟨apart, taken⟩ := used k below
        rw [gone.recalls, recallsWithout, recalls_get_set, if_neg apart]
        exact taken
    have waiting : ((((unqueued s f p (x :: rest)).dropRecall f).startRecall f j).unit p).waiting =
        (s.unit p).waiting - 1 := by
      rw [started.units, gone.units, if_pos rfl]
      split
      · rw [postUnit_waiting]
      · rfl
    refine ⟨_, exec_cancel_head hready h0 hf queue own behind left waiting, ?_, ?_, ?_, ?_, ?_, fun g apart => ?_,
      fun q apart => ?_⟩
    · rw [answered_entry, started.entry, gone.entry]
    · refine (started.recalls : _ = _).trans ?_
      rw [gone.entry, gone.recalls, now, timeout]
      rfl
    · exact started.deferred.trans (gone.deferred.trans empty)
    · exact started.poolFree.trans gone.poolFree
    · rw [answered_unit_same]
    · rw [answered_entry, started.others g apart, gone.others g apart]
    · rw [answered_unit_ne _ _ _ apart, started.units, gone.entry, gone.units, if_neg apart, timeout]
  · intro older newer field full list before after
    have gone := effect_unqueued_dropRecall (s := s) (f := f) (p := p) (x :: rest) (.inr (.inl field))
    rw [field] at gone
    have queued : (((unqueued s f p (x :: rest)).dropRecall f).entry f).queue = x :: rest := by rw [gone.entry]
    have deferred := effect_deferRecall queued
    have left : ((unqueued s f p (x :: rest)).dropRecall f).advance false f =
        ((unqueued s f p (x :: rest)).dropRecall f).deferRecall f := by
      rw [advance_recalls false queued (by rw [gone.entry]; exact barred.imp id fun h => ⟨h.1, h.2, others⟩)]
      refine ensureRecall_defers (by rw [gone.entry]) fun k => ?_
      rw [gone.recalls]
      exact full k
    refine ⟨_, exec_cancel_head hready h0 hf queue own behind left
      (waitingOf ((deferred.units p).trans ((gone.units p).trans (if_pos rfl)))), ?_, ?_, ?_, ?_, fun g apart => ?_,
      fun q apart => ?_⟩
    · rw [answered_entry, deferred.entry, gone.entry]
    · refine (deferred.deferred : _ = _).trans ?_
      rw [gone.deferred]
      show placeDeferred _ (s.deferred.filter _) = _
      rw [list]
      exact placeDeferred_between before after
    · exact deferred.recalls.trans gone.recalls
    · rw [answered_unit_same]
    · rw [answered_entry, deferred.others g apart, gone.others g apart]
    · rw [answered_unit_ne _ _ _ apart, deferred.units, gone.units, if_neg apart]
  · intro i d older newer h more field full list apart used dqueue needed before after
    have fed := headOutFed (p := p) (dropped := []) (x :: rest) field list (fun y hy => (nomatch hy)) apart used dqueue needed
    have queued : (((unqueued s f p (x :: rest)).dropRecall f).entry f).queue = x :: rest := by rw [fed.entry]
    have deferred := effect_deferRecall queued
    have left : ((unqueued s f p (x :: rest)).dropRecall f).advance false f =
        ((unqueued s f p (x :: rest)).dropRecall f).deferRecall f := by
      rw [advance_recalls false queued (by rw [fed.entry]; exact barred.imp id fun h => ⟨h.1, h.2, others⟩)]
      refine ensureRecall_defers (by rw [fed.entry]) fun k => ?_
      rw [fed.recalls, recalls_get_set]
      by_cases other : k = i
      · rw [if_pos other]
        simp
      · rw [if_neg other]
        exact full k other
    have waiting := (congrArg PortUnit.waiting (deferred.units p)).trans fed.waiting
    refine ⟨_, exec_cancel_head hready h0 hf queue own behind left waiting, ?_, ?_, ?_, ?_, ?_, fun g away apart => ?_,
      fun q other => ?_⟩
    · rw [answered_entry, deferred.entry, fed.entry]
    · rw [answered_entry, deferred.others _ apart, fed.served]
    · exact deferred.recalls.trans fed.recalls
    · refine (deferred.deferred : _ = _).trans ?_
      rw [fed.deferred]
      exact placeDeferred_between before after
    · rw [answered_unit_same]
    · rw [answered_entry, deferred.others g away, fed.others g away apart fun y hy => (nomatch hy)]
    · rw [answered_unit_ne _ _ _ other, deferred.units, fed.units q other]

end Sys2Proof.Proofs
end

section
/-! PROOFS. RELEASE, FORCE_RELEASE, SCRUB and UNQUARANTINE: O39, O40, O41, O47, O49, O50. -/

namespace Sys2Proof.Proofs
set_option Elab.async false

open Sys2Proof.Machine Sys2Proof.Safety Sys2Proof.Laws

/-- The states that a count of frames follows (R16). -/
def counted (st : FrameState) : Bool := st == .uninitialized || st == .quarantined || st == .poisoned

/-- No count follows a change between states that are not counted, or a change that keeps the state. -/
theorem putEntry_uncounted {s : State} {f : Nat} {e : Entry}
    (h : e.state = (s.entry f).state ∨ (counted (s.entry f).state = false ∧ counted e.state = false)) :
    s.putEntry f e =
      { s with dir := putDirectory s.dir f e, ports := holdingChange (s.entry f) e s.ports } := by
  rcases h with same | ⟨before, after⟩
  · have status : ((s.entry f).state == .uninitialized && (s.entry f).state != .uninitialized) = false := by
      cases (s.entry f).state <;> rfl
    simp only [State.putEntry, same, countChange_same, status, Bool.false_and, Bool.or_false]
  · simp only [counted, Bool.or_eq_false_iff] at before after
    obtain ⟨⟨u0, q0⟩, p0⟩ := before
    obtain ⟨⟨u1, q1⟩, p1⟩ := after
    simp only [State.putEntry, u0, q0, p0, u1, q1, p1, countChange_same, Bool.false_and, Bool.or_false]

/-! ### A holder leaves a frame without waiters and recall (R41, R43, R44) -/

/-- The entry that a holder leaves behind. -/
def Entry.leftBy (e : Entry) (p : Port) : Entry :=
  if inUse e.state = true ∧ e.holders = onePort p then
    { e with holders := noPorts, state := .free, pinned := false }
  else { e with holders := e.holders.set p false }

theorem Entry.leftBy_holders (e : Entry) (p : Port) : (Entry.leftBy e p).holders = e.holders.set p false := by
  unfold Entry.leftBy
  split
  next last => rw [last.2, onePort_set_false]
  next => rfl

/-- The part with a holder gone from a frame that nobody waits for. -/
def leftFrame (s : State) (f : Nat) (p : Port) : State :=
  (s.putEntry f { s.entry f with holders := (s.entry f).holders.set p false }).afterLeaving false f

structure LeftFrame (f : Nat) (p : Port) (s t : State) : Prop where
  entry : t.entry f = Entry.leftBy (s.entry f) p
  others : ∀ g, g ≠ f → t.entry g = s.entry g
  unit : t.unit p = { s.unit p with holding := (s.unit p).holding - 1 }
  units : ∀ q, q ≠ p → t.unit q = s.unit q
  rest : t = { s with dir := t.dir, ports := t.ports }

theorem leftFrame_leaves {s : State} {f : Nat} {p : Port} (held : (s.entry f).holders.get p = true)
    (empty : (s.entry f).queue = []) :
    LeftFrame f p s (leftFrame s f p) := by
  let e : Entry := { s.entry f with holders := (s.entry f).holders.set p false }
  let s1 := s.putEntry f e
  have edited := effect_putEntry s f e
  have rest1 : s1 = { s with dir := s1.dir, ports := s1.ports } := putEntry_uncounted (.inl rfl)
  have unit1 : s1.unit p = { s.unit p with holding := (s.unit p).holding - 1 } := by
    rw [edited.units, held]
    show holdingMoved _ true (((s.entry f).holders.set p false).get p) = _
    rw [perPort_get_set_same]
    rfl
  have units1 : ∀ q, q ≠ p → s1.unit q = s.unit q := fun q apart => by
    rw [edited.units]
    show holdingMoved _ _ (((s.entry f).holders.set p false).get q) = _
    rw [perPort_get_set_ne _ _ apart, holdingMoved_same]
  have after : leftFrame s f p = _ := afterLeaving_of_queue_nil (s := s1) false (by rw [edited.entry]; exact empty)
  rw [after]
  have alike : (inUse (s1.entry f).state = true ∧ setIsEmpty (s1.entry f).holders = true) ↔
      (inUse (s.entry f).state = true ∧ (s.entry f).holders = onePort p) := by
    rw [edited.entry]
    exact and_congr_right fun _ => setIsEmpty_set_false held
  by_cases last : inUse (s.entry f).state = true ∧ (s.entry f).holders = onePort p
  · rw [if_pos (alike.2 last)]
    have freed := effect_putEntry_sameHolders s1 (f := f) (e := { s1.entry f with state := .free, pinned := false }) rfl
    refine ⟨?_, fun g apart => ?_, (freed.units p).trans unit1, fun q apart => (freed.units q).trans (units1 q apart), ?_⟩
    · rw [freed.entry, edited.entry, Entry.leftBy, if_pos last]
      simp only [e, last.2, onePort_set_false]
    · rw [freed.others g apart, edited.others g apart]
    · have used : counted (s1.entry f).state = false := by
        rw [edited.entry]
        show counted (s.entry f).state = false
        revert last
        cases (s.entry f).state <;> simp [inUse, counted]
      rw [putEntry_uncounted (.inr ⟨used, rfl⟩), rest1]
  · rw [if_neg fun both => last (alike.1 both)]
    refine ⟨?_, edited.others, unit1, units1, rest1⟩
    rw [edited.entry, Entry.leftBy, if_neg last]

/-! ### RELEASE -/

section Release

variable {p : Port} {f : Nat} {clear : Bool} {s : State}

theorem exec_release (hready : Ready s p) (h0 : s.arg p 0 = f) (hf : f < s.frames) (h1 : s.arg p 1 = clear.toNat) :
    exec (.release p) s = .next (ownRelease p (f, clear) (answered s p 0x12 (s.unit p).results)) :=
  congrArg Host.Outcome.next (issue_ready hready (releaseArgs_some h0 hf h1))

/-- The result words of a RELEASE that is taken, read from the state that it leaves (R46). -/
def releaseWords (t : State) (f : Nat) (cleared ended : Bool) : Words4 :=
  ⟨0, pack [fFrame f, fState (t.entry f).state, fFlag cleared], pack [fSet (t.entry f).holders], pack [fFlag ended]⟩

/-- A RELEASE that clears nothing is answered from the state that the leaving leaves. -/
theorem exec_release_kept (hready : Ready s p) (h0 : s.arg p 0 = f) (hf : f < s.frames)
    (h1 : s.arg p 1 = clear.toNat) (held : (s.entry f).holders.get p = true)
    (kept : clearsFrame (s.entry f) p clear = false) {u t : State} {ended : Bool} (left : s.leave f p = (u, ended))
    (after : u.afterLeaving false f = t) :
    exec (.release p) s = .next (answered t p 0x12 (releaseWords t f false ended)) := by
  rw [exec_release hready h0 hf h1]
  have leaving := leave_answered s p 0x12 (s.unit p).results f p
  rw [left] at leaving
  simp only [ownRelease, answered_entry, held, Bool.true_eq_false, if_false, kept, Bool.false_and,
    Bool.false_eq_true, leaving, afterLeaving_answered, after, reply_answered]
  rfl

/-- A RELEASE that clears is answered from the state that appending the frame leaves (R42). -/
theorem exec_release_cleared (hready : Ready s p) (h0 : s.arg p 0 = f) (hf : f < s.frames) (h1 : s.arg p 1 = 1)
    (held : (s.entry f).holders.get p = true) (clears : clearsFrame (s.entry f) p true = true)
    (room : scrubRoom s = true) {u v t : State} {ended : Bool} (left : s.leave f p = (v, ended))
    (dropped : v.dropRecall f = u) (posts : u.scrubQueue ≠ [] ∨ u.memPort ≠ .idle)
    (appended : u.appendScrub f .release none = t) :
    exec (.release p) s = .next (answered t p 0x12 (releaseWords t f true ended)) := by
  rw [exec_release (clear := true) hready h0 hf h1]
  have leaving := leave_answered s p 0x12 (s.unit p).results f p
  rw [left] at leaving
  simp only [ownRelease, answered_entry, held, Bool.true_eq_false, if_false, clears, scrubRoom_answered, room,
    Bool.not_true, Bool.and_false, Bool.false_eq_true, if_true, leaving, dropRecall_answered, dropped,
    appendScrub_answered u p _ _ f .release none posts, appended, reply_answered]
  rfl

theorem pack_noFlag : pack [fFlag false] = 0 := by decide

end Release

/-- Settles O39: nobody waits, so the frame is left as `leftFrame` leaves it. -/
theorem releaseGivesUpFrame : Obligations.ReleaseGivesUpFrame := by
  intro p f s hready h0 hf args
  obtain ⟨clear, h1, kept⟩ : ∃ clear : Bool, s.arg p 1 = clear.toNat ∧ clearsFrame (s.entry f) p clear = false := by
    rcases args with none | ⟨one, shared⟩
    · exact ⟨false, none, rfl⟩
    · refine ⟨true, one, Bool.eq_false_iff.2 fun all => shared ?_⟩
      simpa [clearsFrame] using all
  refine ⟨fun none => ?_, fun held empty field _ => ?_⟩
  · rw [exec_release hready h0 hf h1]
    simp only [ownRelease, answered_entry, none, if_true, refuse_answered]
    rfl
  · obtain ⟨entry, others, unit, units, rest⟩ := leftFrame_leaves held empty
    refine ⟨_, exec_release_kept hready h0 hf h1 held kept (leave_none field) rfl, entry, ?_, others,
      fun q apart => ?_, ?_⟩
    · rw [answered_unit_same, answered_entry]
      have words : releaseWords (leftFrame s f p) f false false = ⟨0, pack [fFrame f, fState ((leftFrame s f p).entry f).state,
          fFlag false], pack [fSet ((s.entry f).holders.set p false)], 0⟩ := by
        rw [releaseWords, pack_noFlag, entry, Entry.leftBy_holders]
      exact (congrArg (answeredWith _ 0x12) words).trans (congrArg (answeredWith · 0x12 _) unit)
    · rw [answered_unit_ne _ _ _ apart]
      exact units q apart
    · exact (congrArg (answered · p 0x12 _) rest).trans rfl

/-! ### FORCE_RELEASE -/

theorem postUnit_holding (u : PortUnit) (r : EventRecord) (n : Nat) :
    { postUnit u r with holding := n } = postUnit { u with holding := n } r := by
  by_cases online : u.online = true
  · by_cases room : u.events.length < 16 <;> simp [postUnit, online, room]
  · simp [postUnit, online]

theorem postUnit_keepsHolding (u : PortUnit) (r : EventRecord) : (postUnit u r).holding = u.holding := by
  rw [postUnit_touches]

theorem renewed_entry (s : State) (f : Nat) : (renewed s).entry f = s.entry f := rfl

theorem renewed_dir (s : State) (p : Port) (code : Word) (r : Words4) : (renewed (answered s p code r)).dir = s.dir := rfl

theorem renewed_unit (s : State) (p : Port) : (renewed s).unit p = s.unit p := rfl

/-- A FORCE_RELEASE from a holder is answered from the state that the leaving leaves. -/
theorem exec_forceRelease {p q : Port} {f : Nat} {s u t : State} {ended : Bool} (hready : ReadyWithToken s p)
    (h0 : s.arg p 0 = f) (hf : f < s.frames) (h1 : s.arg p 1 = portNumber q) (held : (s.entry f).holders.get q = true)
    (left : (s.post q (.revoked f .authority)).leave f q = (u, ended)) (after : u.afterLeaving false f = t) :
    exec (.forceRelease p) s = .next (renewed (answered t p 0x41
      ⟨0, pack [fFrame f, fPort q, fState (t.entry f).state], pack [fSet (t.entry f).holders], pack [fFlag ended]⟩)) := by
  have leaving := leave_answered (s.post q (.revoked f .authority)) p 0x41 (s.unit p).results f q
  rw [left] at leaving
  refine congrArg Host.Outcome.next
    ((issueAuthority_ready hready (forceArgs_some h0 hf h1)).trans (congrArg renewed ?_))
  simp only [ownForceRelease, answered_entry, held, Bool.true_eq_false, if_false, post_answered, leaving,
    afterLeaving_answered, after, reply_answered]
  rfl

/-- Settles O47: the record is queued first, then the frame is left as `leftFrame` leaves it. -/
theorem forceReleaseRevokes : Obligations.ForceReleaseRevokes := by
  intro p q f s hready h0 hf h1
  have owner := issueAuthority_ready (code := 0x41) (owner := ownForceRelease p) hready (forceArgs_some h0 hf h1)
  refine ⟨fun none => ?_, fun held empty field _ => ?_⟩
  · refine congrArg Host.Outcome.next (owner.trans (congrArg renewed ?_))
    simp only [ownForceRelease, answered_entry, none, if_true, refuse_answered]
    rfl
  · let told := s.post q (.revoked f .authority)
    let left := leftFrame told f q
    obtain ⟨entry, others, unit, units, rest⟩ := leftFrame_leaves (s := told) (f := f) (p := q) held empty
    let u := s.setUnit q (postUnit { s.unit q with holding := (s.unit q).holding - 1 } (.revoked f .authority))
    have ports : left.ports = u.ports := perPort_ext fun r => by
      show left.unit r = u.unit r
      by_cases same : r = q
      · subst same
        rw [unit, post_unit, if_pos rfl, postUnit_keepsHolding, postUnit_holding]
        exact (setUnit_unit_same _ _ _).symm
      · rw [units r same, post_unit, if_neg same]
        exact (setUnit_unit_ne _ _ same).symm
    have whole : left = { u with dir := left.dir } := by
      refine rest.trans ?_
      rw [ports]
      rfl
    have done := exec_forceRelease hready h0 hf h1 held (leave_none (s := told) field)
      (show (told.putEntry f _).afterLeaving false f = left from rfl)
    have holders : (left.entry f).holders = (s.entry f).holders.set q false := by
      rw [entry, Entry.leftBy_holders]
      rfl
    rw [holders, pack_noFlag] at done
    refine ⟨_, u, done, rfl, ?_, fun g apart => ?_, ?_⟩
    · refine (renewed_entry _ f).trans ?_
      rw [answered_entry, entry, post_entry]
      rfl
    · refine (renewed_entry _ g).trans ?_
      rw [answered_entry, others g apart, post_entry]
    · rw [renewed_entry, answered_entry, renewed_dir]
      exact congrArg (fun x : State => renewed (answered x p 0x41 _)) whole

/-! ### The last holder leaves a frame with a recall (R59, R66) -/

section Last

variable {p : Port} {f : Nat} {s : State}

/-- The part with a port out of a frame's holders. -/
def heldNoMore (s : State) (f : Nat) (p : Port) : State :=
  s.putEntry f { s.entry f with holders := (s.entry f).holders.set p false }

/-- A port's unit once it has ceased to hold a frame. -/
def heldOneLess (u : PortUnit) : PortUnit := { u with holding := u.holding - 1 }

theorem effect_heldNoMore (held : (s.entry f).holders.get p = true) :
    Effect f s (heldNoMore s f p) { s.entry f with holders := (s.entry f).holders.set p false }
      (fun q => if q = p then heldOneLess (s.unit q) else s.unit q) s.recalls s.deferred s.poolFree := by
  refine (effect_putEntry s f _).congr rfl (fun q => ?_) rfl rfl rfl
  show holdingMoved _ _ (((s.entry f).holders.set p false).get q) = _
  by_cases same : q = p
  · rw [if_pos same, same, held, perPort_get_set_same]
    rfl
  · rw [if_neg same, perPort_get_set_ne _ _ same, holdingMoved_same]

theorem leave_eq (s : State) (f : Nat) (p : Port) : s.leave f p = (heldNoMore s f p).leaveToRelease f p := rfl

/-- A frame without an active recall: nothing ends with the holding. -/
theorem leave_of_inactive (held : (s.entry f).holders.get p = true)
    (field : (s.entry f).recallField = .none ∨ (s.entry f).recallField = .deferred) :
    s.leave f p = (heldNoMore s f p, false) := by
  have none : (heldNoMore s f p).recallOf f = none := by
    rw [State.recallOf, (effect_heldNoMore held).entry]
    rcases field with field | field <;> simp only [field]
  simp only [leave_eq, State.leaveToRelease, none]

/-- The port was the last that the recall asked: the recall ends with the holding (R59). -/
theorem leave_last {i : Fin 8} {r : RecallRec} (held : (s.entry f).holders.get p = true)
    (field : (s.entry f).recallField = .active i) (slot : s.recalls.get i = some r) (only : r.toRelease = onePort p) :
    s.leave f p = ((heldNoMore s f p).dropRecall f, true) := by
  have gone := effect_heldNoMore held
  have active : (heldNoMore s f p).recallOf f = some (i, r) := by
    simp only [State.recallOf, gone.entry, field, gone.recalls, slot, Option.map_some]
  have asked : r.toRelease.get p = true := by rw [only, onePort_get_same]
  have left : setIsEmpty (r.toRelease.set p false) = true := by
    rw [only, onePort_set_false]
    exact beq_self_eq_true _
  simp only [leave_eq, State.leaveToRelease, active, asked, if_true, left]

/-- The part with a port out of a frame's holders and the frame's recall gone. -/
theorem effect_heldNoMore_dropRecall (held : (s.entry f).holders.get p = true) (alone : RecallAlone s f) :
    Effect f s ((heldNoMore s f p).dropRecall f)
      { s.entry f with holders := (s.entry f).holders.set p false, recallField := .none }
      (fun q => if q = p then heldOneLess (s.unit q) else s.unit q)
      (recallsWithout (s.entry f).recallField s.recalls) (deferredWithout (s.entry f).recallField f s.deferred)
      s.poolFree := by
  have out := effect_heldNoMore held
  have gone := effect_dropRecall (s := heldNoMore s f p) (f := f)
    (by unfold RecallAlone; rw [out.entry]; exact alone)
  refine (out.trans gone).congr (by rw [out.entry]) out.units ?_ ?_ out.poolFree
  · rw [out.entry, out.recalls]
  · rw [out.entry, out.deferred]

end Last

/-- A frame appended while the memory port is busy: an IDLE engine has its burst 0 waiting, an ACTIVE one goes on
(R124). -/
theorem appendScrub_busy {s : State} (busy : s.memPort ≠ .idle) (f : Nat) (origin : Origin) (notify : Option Port) :
    s.appendScrub f origin notify =
      { s.putEntry f { s.entry f with state := .scrubbing, pinned := false } with
        scrubQueue := s.scrubQueue ++ [⟨f, origin, notify⟩],
        burst := if s.scrubQueue = [] then 0 else s.burst,
        scrubRequest := if s.scrubQueue = [] then some ⟨f, 0⟩ else s.scrubRequest } := by
  unfold State.appendScrub
  dsimp only
  by_cases empty : s.scrubQueue = []
  · rw [if_pos (List.isEmpty_iff.2 empty), postScrub_busy (by exact busy), if_pos empty, if_pos empty]
    rfl
  · rw [if_neg (fun h => empty (List.isEmpty_iff.1 h)), if_neg empty, if_neg empty]
    rfl

theorem pack_noPorts : pack [fSet noPorts] = 0 := by decide

/-- Settles O41: the recall goes with the last holder, then the frame is appended to the scrub queue. -/
theorem releaseWithClear : Obligations.ReleaseWithClear := by
  intro p f s hready h0 hf h1 used sole
  have held : (s.entry f).holders.get p = true := by rw [sole, onePort_get_same]
  have clears : clearsFrame (s.entry f) p true = true := by simp [clearsFrame, used, sole]
  have owner := exec_release (clear := true) hready h0 hf h1
  refine ⟨fun full => ?_, fun ended room busy ending => ?_⟩
  · have none : scrubRoom s = false := by simp [scrubRoom, full]
    rw [owner]
    simp only [ownRelease, answered_entry, held, Bool.true_eq_false, if_false, clears, scrubRoom_answered, none,
      Bool.not_false, Bool.and_self, if_true, refuse_answered]
    rfl
  · have space : scrubRoom s = true := by simp [scrubRoom, room]
    have alone : RecallAlone s f := by
      rcases ending with ⟨field, -⟩ | ⟨⟨i, r, field, -, -, empty⟩, -⟩
      · exact field.imp id .inl
      · exact .inr (.inr ⟨i, field, empty⟩)
    have gone := effect_heldNoMore_dropRecall held alone
    let u := (heldNoMore s f p).dropRecall f
    obtain ⟨v, left, dropped⟩ : ∃ v, s.leave f p = (v, ended) ∧ v.dropRecall f = u := by
      rcases ending with ⟨field, rfl⟩ | ⟨⟨i, r, field, slot, only, -⟩, rfl⟩
      · exact ⟨_, leave_of_inactive held field, rfl⟩
      · exact ⟨_, leave_last held field slot only, dropRecall_none (by rw [gone.entry])⟩
    let t := u.appendScrub f .release none
    have scrub : u.scrubQueue = s.scrubQueue ∧ u.burst = s.burst ∧ u.scrubRequest = s.scrubRequest ∧
        u.memPort = s.memPort ∧ u.memory = s.memory := by
      have same := (directoryChange_dropRecall (heldNoMore s f p) f).1
      exact ⟨(congrArg State.scrubQueue same :), (congrArg State.burst same :), (congrArg State.scrubRequest same :),
        (congrArg State.memPort same :), (congrArg State.memory same :)⟩
    obtain ⟨queue, burst, request, port, memory⟩ := scrub
    have eq : t = _ := appendScrub_busy (s := u) (by rw [port]; exact busy) f .release none
    have entry : t.entry f =
        { s.entry f with holders := noPorts, state := .scrubbing, pinned := false, recallField := .none } := by
      rw [appendScrub_entry, if_pos rfl, gone.entry, sole, onePort_set_false]
    have unit : ∀ q, t.unit q = if q = p then heldOneLess (s.unit q) else s.unit q := fun q => by
      rw [eq]
      exact (putEntry_unit_same (by rfl)).trans (gone.units q)
    have done := exec_release_cleared hready h0 hf h1 held clears space left dropped
      (.inr (by rw [port]; exact busy)) (show u.appendScrub f .release none = t from rfl)
    have words : releaseWords t f true ended = ⟨0, pack [fFrame f, (4, 4), fFlag true], 0, pack [fFlag ended]⟩ := by
      rw [releaseWords, entry, pack_noPorts]
      rfl
    refine ⟨_, done, entry, fun j => ?_, ?_, ?_, fun empty => ?_, fun some => ?_, ?_, fun g apart => ?_,
      fun q apart => ?_, ?_, ?_⟩
    · refine (congrArg (fun x : State => x.recalls.get j) eq).trans ?_
      exact (congrArg (fun v : Vector (Option RecallRec) 8 => v.get j) gone.recalls).trans (recallsWithout_get _ _ _)
    · exact (congrArg State.deferred eq).trans (gone.deferred.trans (deferredWithout_eq _ _ _))
    · exact (congrArg State.scrubQueue eq).trans (congrArg (· ++ _) queue)
    · rw [← queue] at empty
      exact ⟨(congrArg State.burst eq).trans (if_pos empty), (congrArg State.scrubRequest eq).trans (if_pos empty)⟩
    · rw [← queue] at some
      exact ⟨((congrArg State.burst eq).trans (if_neg some)).trans burst,
        ((congrArg State.scrubRequest eq).trans (if_neg some)).trans request⟩
    · rw [answered_unit_same, unit, if_pos rfl, words]
      rfl
    · rw [answered_entry, appendScrub_entry, if_neg apart, gone.others g apart]
    · rw [answered_unit_ne _ _ _ apart, unit, if_neg apart]
    · exact (congrArg State.memPort eq).trans port
    · exact (congrArg State.memory eq).trans memory

/-! ### A release that serves a waiter (R36, R41, R43, R59) -/

section Serves

variable {p : Port} {f : Nat} {s : State}

/-- The last holder has left a frame in use: it is FREE and unpinned, and its queue is served (R41). -/
theorem afterLeaving_frees (forced : Bool) (used : inUse (s.entry f).state = true) (none : (s.entry f).holders = noPorts) :
    s.afterLeaving forced f = (s.putEntry f { s.entry f with state := .free, pinned := false }).advance forced f := by
  have empty : setIsEmpty (s.entry f).holders = true := by
    rw [none]
    exact beq_self_eq_true _
  simp only [State.afterLeaving, used, empty, if_true]

theorem afterLeaving_stays (forced : Bool) (used : inUse (s.entry f).state = true) (some : (s.entry f).holders ≠ noPorts) :
    s.afterLeaving forced f = s.advance forced f := by
  have held : setIsEmpty (s.entry f).holders = false := beq_false_of_ne some
  simp only [State.afterLeaving, used, held, if_true, Bool.false_eq_true, if_false]

/-- A PRIVATE head alone in the queue and alone in the holders of a SHARED frame is upgraded (R34 step 4). -/
theorem advance_upgrades_only {h : WaitRec} (forced : Bool) (queue : (s.entry f).queue = [h])
    (state : (s.entry f).state = .shared) (mode : h.mode = .priv) (sole : (s.entry f).holders = onePort h.port) :
    s.advance forced f = s.grantHead f h forced true := by
  have passes : (s.entry f).queue.length = 0 + 1 := by rw [queue, List.length_singleton]
  rw [State.advance, passes, advanceFuel_upgrades forced 0 queue state mode sole]
  rfl

/-- The frame that the last holder leaves passes to its only waiter. -/
theorem effect_afterLeaving_grants {w : WaitRec} (forced : Bool) (used : inUse (s.entry f).state = true)
    (none : (s.entry f).holders = noPorts) (queue : (s.entry f).queue = [w]) (field : (s.entry f).recallField = .none) :
    Effect f s (s.afterLeaving forced f)
      { state := heldState w.mode, holders := onePort w.port, pinned := false, queue := [], recallField := .none }
      (fun q => if q = w.port then grantedTo (s.unit q) false (.grant f w.mode w.tag forced false false) else s.unit q)
      s.recalls s.deferred (s.poolFree + 1) := by
  let s1 := s.putEntry f { s.entry f with state := .free, pinned := false }
  have freed : Effect f s s1 _ _ _ _ _ := effect_putEntry_sameHolders s rfl
  have granted := effect_grantHead (s := s1) w forced false (.inl (by rw [freed.entry]; exact field))
  rw [afterLeaving_frees forced used none, advance_grants_only (s := s1) forced (by rw [freed.entry]; exact queue)
    (.inl (by rw [freed.entry]))]
  refine (freed.trans granted).congr ?_ (fun q => ?_) ?_ ?_ ?_
  · rw [freed.entry, Entry.headGranted, none, queue]
    rfl
  · rw [freed.entry, freed.units, none, noPorts_get]
  · rw [freed.entry, field]
    exact freed.recalls
  · rw [freed.entry, field]
    exact freed.deferred
  · rw [freed.poolFree]

/-- The head left as the sole SHARED holder is upgraded. -/
theorem effect_afterLeaving_upgrades {w : WaitRec} (forced : Bool) (state : (s.entry f).state = .shared)
    (sole : (s.entry f).holders = onePort w.port) (queue : (s.entry f).queue = [w]) (mode : w.mode = .priv)
    (field : (s.entry f).recallField = .none) :
    Effect f s (s.afterLeaving forced f)
      { s.entry f with state := .priv, holders := onePort w.port, queue := [], recallField := .none }
      (fun q => if q = w.port then grantedTo (s.unit q) true (.grant f .priv w.tag forced false true) else s.unit q)
      s.recalls s.deferred (s.poolFree + 1) := by
  have some : (s.entry f).holders ≠ noPorts := fun none => by
    have same := congrArg (PerPort.get · w.port) (sole.symm.trans none)
    simp at same
  have granted := effect_grantHead (s := s) w forced true (.inl field)
  rw [afterLeaving_stays forced (by rw [state]; rfl) some, advance_upgrades_only forced queue state mode sole]
  refine granted.congr ?_ (fun q => ?_) ?_ ?_ rfl
  · rw [Entry.headGranted, sole, queue, onePort_set_same, mode]
    rfl
  · by_cases same : q = w.port
    · rw [if_pos same, if_pos same, sole, same, onePort_get_same, mode]
    · rw [if_neg same, if_neg same]
  · rw [field]
    rfl
  · rw [field]
    rfl

/-- The last port that the active recall asked leaves, and no frame is deferred. -/
theorem leave_ends_recall {i : Fin 8} {r : RecallRec} (held : (s.entry f).holders.get p = true)
    (field : (s.entry f).recallField = .active i) (slot : s.recalls.get i = some r) (only : r.toRelease = onePort p)
    (empty : s.deferred = []) :
    ∃ u, s.leave f p = (u, true) ∧
      Effect f s u { s.entry f with holders := (s.entry f).holders.set p false, recallField := .none }
        (fun q => if q = p then heldOneLess (s.unit q) else s.unit q) (s.recalls.set i none) [] s.poolFree ∧
      u.memory = s.memory := by
  have gone := effect_heldNoMore_dropRecall held (.inr (.inr ⟨i, field, empty⟩))
  rw [field, empty] at gone
  exact ⟨_, leave_last held field slot only, gone,
    (congrArg State.memory (directoryChange_dropRecall (heldNoMore s f p) f).1 :)⟩

end Serves

/-- Settles O40: the recall ends with the holding, and the frame that is left serves its only waiter. -/
theorem releaseServesWaiter : Obligations.ReleaseServesWaiter := by
  refine ⟨fun p f w i r s hready h0 hf h1 state sole queue apart field slot only empty => ?_,
    fun p f w i r s hready h0 hf h1 state holders queue mode apart field slot only empty => ?_⟩
  · have held : (s.entry f).holders.get p = true := by rw [sole, onePort_get_same]
    obtain ⟨u, left, gone, memory⟩ := leave_ends_recall held field slot only empty
    have passed := effect_afterLeaving_grants (s := u) (f := f) (w := w) false (by rw [gone.entry, state]; rfl)
      (by rw [gone.entry, sole]; exact onePort_set_false p) (by rw [gone.entry]; exact queue) (by rw [gone.entry])
    have after := directoryChange_afterLeaving u false f
    generalize served : u.afterLeaving false f = t at passed after
    have all := gone.trans passed
    have done := exec_release_kept (clear := false) hready h0 hf h1 held rfl left served
    refine ⟨_, done, all.entry, all.recalls.trans gone.recalls, all.deferred.trans gone.deferred,
      all.poolFree.trans (congrArg (· + 1) gone.poolFree), ?_, ?_, all.others, fun q other others => ?_,
      (congrArg State.memory after.1).trans memory⟩
    · rw [answered_unit_ne _ _ _ apart, all.units, if_pos rfl, gone.units, if_neg apart]
      rfl
    · have unit : t.unit p = heldOneLess (s.unit p) := by
        rw [all.units, if_neg (Ne.symm apart), gone.units, if_pos rfl]
      rw [answered_unit_same, unit, releaseWords, all.entry]
      rfl
    · rw [answered_unit_ne _ _ _ other, all.units, if_neg others, gone.units, if_neg other]
  · have held : (s.entry f).holders.get p = true := by
      rw [holders, perPort_get_set_ne _ _ (Ne.symm apart), onePort_get_same]
    have others : (s.entry f).holders.set p false = onePort w.port := perPort_ext fun q => by
      rw [holders, onePort_get, perPort_get_set, perPort_get_set, onePort_get]
      by_cases same : q = p
      · simp [same, Ne.symm apart]
      · simp [same]
    obtain ⟨u, left, gone, memory⟩ := leave_ends_recall held field slot only empty
    have passed := effect_afterLeaving_upgrades (s := u) (f := f) (w := w) false (by rw [gone.entry]; exact state)
      (by rw [gone.entry]; exact others) (by rw [gone.entry]; exact queue) mode (by rw [gone.entry])
    have after := directoryChange_afterLeaving u false f
    generalize served : u.afterLeaving false f = t at passed after
    have all := gone.trans passed
    have done := exec_release_kept (clear := false) hready h0 hf h1 held rfl left served
    refine ⟨_, done, ?_, all.recalls.trans gone.recalls, all.deferred.trans gone.deferred,
      all.poolFree.trans (congrArg (· + 1) gone.poolFree), ?_, ?_, all.others, fun q other others => ?_,
      (congrArg State.memory after.1).trans memory⟩
    · rw [answered_entry, all.entry, gone.entry]
    · rw [answered_unit_ne _ _ _ apart, all.units, if_pos rfl, gone.units, if_neg apart]
      rfl
    · rw [answered_unit_same, releaseWords, all.entry]
      rfl
    · rw [answered_unit_ne _ _ _ other, all.units, if_neg others, gone.units, if_neg other]

/-! ### SCRUB -/

theorem scrubbable_iff (st : FrameState) :
    scrubbable st = true ↔ st = .free ∨ st = .quarantined ∨ st = .poisoned := by
  cases st <;> simp [scrubbable]

/-- The part with every holder of a frame revoked (R155). -/
def revokedAll (s : State) (f : Nat) : State :=
  (s.putEntry f { s.entry f with holders := noPorts }).postSet (s.entry f).holders (.revoked f .scrub)

theorem effect_revokedAll (s : State) (f : Nat) :
    Effect f s (revokedAll s f) { s.entry f with holders := noPorts }
      (fun q => if (s.entry f).holders.get q = true then
        postUnit { s.unit q with holding := (s.unit q).holding - 1 } (.revoked f .scrub) else s.unit q)
      s.recalls s.deferred s.poolFree := by
  have removed := effect_putEntry s f { s.entry f with holders := noPorts }
  refine (removed.trans (effect_postSet _ f _ _)).congr removed.entry (fun q => ?_) rfl rfl rfl
  rw [removed.units]
  by_cases held : (s.entry f).holders.get q = true
  · rw [if_pos held, if_pos held, held, noPorts_get]
    rfl
  · rw [if_neg held, if_neg held, Bool.eq_false_iff.2 held, noPorts_get, holdingMoved_same]

theorem directoryChange_revokedAll (s : State) (f : Nat) : DirectoryChange s (revokedAll s f) :=
  (directoryChange_putEntry s f _).trans (directoryChange_postSet _ _ _)

/-- Settles O49: the refusals, then the holders revoked and the frame appended. -/
theorem scrubQueuesFrame : Obligations.ScrubQueuesFrame := by
  intro p f s hready h0 hf
  have owner := issueAuthority_ready (code := 0x44) (owner := ownScrub p) hready (frameArgs_some h0 hf)
  refine ⟨fun free quarantined poisoned => ?_, fun state full => ?_, fun state room active => ?_⟩
  · have barred : scrubbable (s.entry f).state = false := Bool.eq_false_iff.2 fun can =>
      ((scrubbable_iff _).1 can).elim free fun h => h.elim quarantined poisoned
    refine congrArg Host.Outcome.next (owner.trans (congrArg renewed ?_))
    simp only [ownScrub, answered_entry, barred, if_true, refuse_answered]
    rfl
  · have none : scrubRoom s = false := by simp [scrubRoom, full]
    refine congrArg Host.Outcome.next (owner.trans (congrArg renewed ?_))
    simp only [ownScrub, answered_entry, (scrubbable_iff _).2 state, scrubRoom_answered, none, Bool.true_eq_false,
      if_false, if_true, refuse_answered]
    rfl
  · have space : scrubRoom s = true := by simp [scrubRoom, room]
    have revoked := effect_revokedAll s f
    have change := (directoryChange_revokedAll s f).1
    have queue : (revokedAll s f).scrubQueue = s.scrubQueue := (congrArg State.scrubQueue change :)
    have eq := appendScrub_active (s := revokedAll s f) f .command (some p) (by rw [queue]; exact active)
    have commutes := appendScrub_answered (revokedAll s f) p 0x44 (s.unit p).results f .command (some p)
      (.inl (by rw [queue]; exact active))
    have entry := appendScrub_entry (revokedAll s f) f .command (some p)
    generalize appended : (revokedAll s f).appendScrub f .command (some p) = t at eq commutes entry
    let words : Words4 := ⟨0, pack [fFrame f, fState (s.entry f).state],
      pack [fSmall (s.scrubQueue.length + 1), fSet (s.entry f).holders], pack [fSmall (s.entry f).queue.length]⟩
    have done : exec (.scrub p) s = .next (renewed (answered t p 0x44 words)) := by
      refine congrArg Host.Outcome.next (owner.trans (congrArg renewed ?_))
      simp only [ownScrub, answered_entry, (scrubbable_iff _).2 state, scrubRoom_answered, space, Bool.true_eq_false,
        if_false, putEntry_answered, postSet_answered]
      refine (congrArg (fun x : State => x.reply p .ok _ _ _) commutes).trans ?_
      rw [reply_answered]
      rfl
    have unit : ∀ q, t.unit q = (revokedAll s f).unit q := fun q => by
      rw [eq]
      exact putEntry_unit_same (by rfl)
    refine ⟨_, done, ?_, ?_, ?_, fun q apart held => ?_, fun q apart held => ?_, fun g apart => ?_, ?_, ?_, ?_, ?_, ?_⟩
    · rw [renewed_entry, answered_entry, entry, if_pos rfl, revoked.entry]
    · exact (congrArg State.scrubQueue eq).trans (congrArg (· ++ _) queue)
    · rw [renewed_unit, answered_unit_same]
    · rw [renewed_unit, answered_unit_ne _ _ _ apart, unit, revoked.units, if_pos held]
    · rw [renewed_unit, answered_unit_ne _ _ _ apart, unit, revoked.units, if_neg (by rw [held]; decide)]
    · rw [renewed_entry, answered_entry, entry, if_neg apart, revoked.others g apart]
    · exact (congrArg State.token eq).trans (congrArg State.token change :)
    · have now : t.now = s.now := (congrArg State.now eq).trans (congrArg State.now change :)
      have lease : t.leaseParam = s.leaseParam := (congrArg State.leaseParam eq).trans (congrArg State.leaseParam change :)
      show t.now + t.leaseParam * 1000 = _
      rw [now, lease]
    · exact (congrArg State.memPort eq).trans (congrArg State.memPort change :)
    · exact (congrArg State.scrubRequest eq).trans (congrArg State.scrubRequest change :)
    · exact (congrArg State.memory eq).trans (congrArg State.memory change :)

/-! ### UNQUARANTINE -/

section Unquarantine

variable {p : Port} {f : Nat} {s : State}

/-- The part with a frame FREE again, before its queue is served (R158). -/
def freedFrame (s : State) (f : Nat) : State := s.putEntry f { s.entry f with state := .free }

theorem effect_freedFrame (s : State) (f : Nat) :
    Effect f s (freedFrame s f) { s.entry f with state := .free } s.unit s.recalls s.deferred s.poolFree :=
  effect_putEntry_sameHolders s rfl

theorem exec_unquarantine (hready : ReadyWithToken s p) (h0 : s.arg p 0 = f) (hf : f < s.frames)
    (state : (s.entry f).state = .quarantined) {t : State} (served : (freedFrame s f).advance false f = t) :
    exec (.unquarantine p) s = .next (renewed (answered t p 0x45
      ⟨0, pack [fFrame f, fState (t.entry f).state], pack [fSet (t.entry f).holders],
        pack [fSmall (t.entry f).queue.length]⟩)) := by
  refine congrArg Host.Outcome.next
    ((issueAuthority_ready hready (frameArgs_some h0 hf)).trans (congrArg renewed ?_))
  rw [← served]
  simp only [ownUnquarantine, answered_entry, state, ne_eq, not_true_eq_false, if_false, putEntry_answered,
    advance_answered, reply_answered]
  rfl

theorem renewed_answered_unit (t : State) {p q : Port} (code : Word) (r : Words4) (apart : q ≠ p) :
    (renewed (answered t p code r)).unit q = t.unit q := answered_unit_ne t code r apart

/-- No count of frames follows a grant on a frame that none of them holds (R16). -/
theorem grantHead_counts {h : WaitRec} {forced upgraded : Bool} (field : (s.entry f).recallField = .none)
    (free : counted (s.entry f).state = false) :
    (s.grantHead f h forced upgraded).quarantinedCount = s.quarantinedCount ∧
      (s.grantHead f h forced upgraded).uninitCount = s.uninitCount := by
  let popped := s.putEntry f { s.entry f with queue := (s.entry f).queue.tail }
  let s1 := popped.returnRecord h.port
  have entry : s1.entry f = { s.entry f with queue := (s.entry f).queue.tail } := entry_putEntry_same s f _
  have before : popped.quarantinedCount = s.quarantinedCount ∧ popped.uninitCount = s.uninitCount := by
    have same : popped = _ := putEntry_uncounted (.inl rfl)
    exact ⟨(congrArg State.quarantinedCount same :), (congrArg State.uninitCount same :)⟩
  let e : Entry := { s1.entry f with holders := (s1.entry f).holders.set h.port true, state := heldState h.mode }
  have run : s.grantHead f h forced upgraded =
      (s1.putEntry f e).post h.port (.grant f h.mode h.tag forced false upgraded) := by
    have still : s1.dropRecall f = s1 := dropRecall_none (by rw [entry]; exact field)
    unfold State.grantHead
    exact congrArg (fun u : State => (u.putEntry f { u.entry f with
      holders := (u.entry f).holders.set h.port true, state := heldState h.mode }).post h.port _) still
  have after : s1.putEntry f e = _ := putEntry_uncounted (.inr
    ⟨by rw [entry]; exact free, by show counted (heldState h.mode) = false; cases h.mode <;> rfl⟩)
  rw [run]
  exact ⟨((congrArg State.quarantinedCount after).trans before.1 :), ((congrArg State.uninitCount after).trans before.2 :)⟩

end Unquarantine

/-- Settles O50: the FREE frame's queue is served by advancement, one waiter, a run, or one and a recall for the next. -/
theorem unquarantineFreesFrame : Obligations.UnquarantineFreesFrame := by
  intro p f s hready h0 hf
  have owner := issueAuthority_ready (code := 0x45) (owner := ownUnquarantine p) hready (frameArgs_some h0 hf)
  have freed := effect_freedFrame s f
  refine ⟨fun state => ?_, fun state empty => ?_, fun w state queue none field => ?_,
    fun state some modes once none field => ?_, fun w x rest i state queue mode apart none field free used => ?_⟩
  · refine congrArg Host.Outcome.next (owner.trans (congrArg renewed ?_))
    simp only [ownUnquarantine, answered_entry, if_pos state, refuse_answered]
    rfl
  · have still : (freedFrame s f).advance false f = freedFrame s f :=
      advance_of_queue_nil false (by rw [freed.entry]; exact empty)
    rw [exec_unquarantine hready h0 hf state still, freed.entry, empty]
    rfl
  · have granted := effect_grantHead (s := freedFrame s f) (f := f) w false false (.inl (by rw [freed.entry]; exact field))
    have change := directoryChange_grantHead (freedFrame s f) f w false false
    have count := (grantHead_counts (s := freedFrame s f) (f := f) (h := w) (forced := false) (upgraded := false)
      (by rw [freed.entry]; exact field) (by rw [freed.entry]; rfl)).1
    have served := advance_grants_only (s := freedFrame s f) (f := f) (h := w) false (by rw [freed.entry]; exact queue)
      (.inl (by rw [freed.entry]))
    generalize (freedFrame s f).grantHead f w false false = t at granted change count served
    have entry : t.entry f =
        { s.entry f with state := heldState w.mode, holders := onePort w.port, queue := [] } := by
      rw [granted.entry, freed.entry, Entry.headGranted, none, queue]
      show ({ s.entry f with state := _, holders := _, queue := [], recallField := RecallField.none } : Entry) = _
      rw [← field]
      rfl
    have unit : ∀ q, q ≠ w.port → t.unit q = s.unit q := fun q away => by
      rw [granted.units, if_neg away, freed.units]
    refine ⟨_, exec_unquarantine hready h0 hf state served, entry, fun apart => ?_, ?_, ?_,
      granted.poolFree.trans (congrArg (· + 1) freed.poolFree), fun g away => ?_, fun q apart away => ?_,
      (congrArg State.memory change.1 :)⟩
    · rw [renewed_answered_unit _ _ _ apart, granted.units, if_pos rfl, freed.entry, freed.units, none, noPorts_get]
      rfl
    · rw [renewed_unit, answered_unit_same, entry]
      rfl
    · refine (count : t.quarantinedCount = _).trans ?_
      show countChange ((s.entry f).state == .quarantined) _ s.quarantinedCount = _
      rw [state]
      rfl
    · rw [renewed_entry, answered_entry, granted.others g away, freed.others g away]
    · rw [renewed_answered_unit _ _ _ apart, unit q away]
  · have granted := @runGranted_advance f false (freedFrame s f)
    unfold RecallAlone at granted
    rw [freed.entry] at granted
    have run := granted some (.inl rfl) modes (fun x _ => by rw [none, noPorts_get]) once (.inl field)
    generalize served : (freedFrame s f).advance false f = t at run
    have entry := run.entry
    rw [freed.entry] at entry
    refine ⟨_, exec_unquarantine hready h0 hf state served, ?_, fun q => ?_, fun x hx apart => ?_, ?_, ?_, ?_,
      fun g away => ?_, fun q apart away => ?_⟩
    · refine entry.trans ?_
      rw [← field]
      rfl
    · refine (run.holders q).trans ?_
      rw [freed.entry, none, noPorts_get, Bool.false_or]
    · rw [renewed_answered_unit _ _ _ apart, run.granted x hx, freed.units]
      rfl
    · rw [renewed_unit, answered_unit_same, renewed_entry, answered_entry, entry]
      rfl
    · exact run.poolFree.trans (by rw [freed.poolFree])
    · refine (run.recalls : t.recalls = _).trans ?_
      rw [freed.entry, freed.recalls]
      simp only [field]
      rfl
    · rw [renewed_entry, answered_entry, run.others g away, freed.others g away]
    · rw [renewed_answered_unit _ _ _ apart, run.units q away, freed.units]
  · have granted := effect_grantHead (s := freedFrame s f) (f := f) w false false (.inl (by rw [freed.entry]; exact field))
    have change := directoryChange_grantHead (freedFrame s f) f w false false
    have first := advanceFuel_grants (s := freedFrame s f) (f := f) false (rest.length + 1)
      (by rw [freed.entry]; exact queue) (.inl (by rw [freed.entry]))
    generalize (freedFrame s f).grantHead f w false false = u at granted change first
    have entry : u.entry f =
        { s.entry f with state := .priv, holders := onePort w.port, queue := x :: rest, recallField := .none } := by
      rw [granted.entry, freed.entry, Entry.headGranted, none, queue, mode]
      rfl
    have asked : (onePort w.port).set x.port false = onePort w.port := perPort_ext fun q => by
      rw [perPort_get_set]
      by_cases same : q = x.port
      · rw [if_pos same, onePort_get, same, decide_eq_false apart]
      · rw [if_neg same]
    have recalls : u.recalls = s.recalls := by
      rw [granted.recalls, freed.entry, freed.recalls]
      simp only [field]
      rfl
    have started := effect_startRecall (s := u) (f := f) i (h := x) (rest := rest) (by rw [entry])
    rw [entry] at started
    simp only [asked] at started
    have told := directoryChange_startRecall u f i
    have second : u.ensureRecall f = u.startRecall f i := by
      refine ensureRecall_starts (by rw [entry]) (by rw [recalls]; exact free) fun j below => ?_
      rw [recalls]
      exact used j below
    have served : (freedFrame s f).advance false f = u.startRecall f i := by
      have passes : ((freedFrame s f).entry f).queue.length = rest.length + 1 + 1 := by
        rw [freed.entry]
        exact congrArg List.length queue
      rw [State.advance, passes, first, advanceFuel_recalls (h := x) (rest := rest) false _ (by rw [entry])
        (.inl (by rw [entry])), second]
    have now : u.now = s.now ∧ u.recallTimeout = s.recallTimeout :=
      ⟨(congrArg State.now change.1 :), (congrArg State.recallTimeout change.1 :)⟩
    rw [now.1, now.2, recalls] at started
    generalize u.startRecall f i = t at started told served
    refine ⟨_, exec_unquarantine hready h0 hf state served, started.entry, started.recalls, fun other => ?_, ?_,
      started.poolFree.trans (granted.poolFree.trans (congrArg (· + 1) freed.poolFree)), ?_, fun g away => ?_,
      fun q other away => ?_⟩
    · rw [renewed_answered_unit _ _ _ other, started.units, if_pos (onePort_get_same _), granted.units, if_pos rfl,
        freed.entry, freed.units, none, noPorts_get, mode]
      rfl
    · rw [renewed_unit, answered_unit_same, started.entry]
      rfl
    · refine (started.deferred.trans granted.deferred : t.deferred = _).trans ?_
      rw [freed.entry, freed.deferred]
      simp only [field]
      rfl
    · rw [renewed_entry, answered_entry, started.others g away, granted.others g away, freed.others g away]
    · have absent : (onePort w.port).get q = false := by rw [onePort_get, decide_eq_false away]
      rw [renewed_answered_unit _ _ _ other, started.units, if_neg (by rw [absent]; decide), granted.units, if_neg away,
        freed.units]

end Sys2Proof.Proofs
end

section
/-! PROOFS. The refresh and its arbitration in ring order, and the deadline of a recall: O59, O60. -/

namespace Sys2Proof.Proofs
set_option Elab.async false

open Sys2Proof.Machine Sys2Proof.Safety Sys2Proof.Laws

/-! ### The ring (R102) -/

theorem requesterAt_mod (n : Nat) : requesterAt (n % 5) = requesterAt n := by
  simp only [requesterAt, Nat.mod_mod]

theorem ring_requesterAt (n : Nat) : ring (requesterAt n) = (List.range 5).map fun j => requesterAt (n + j) := by
  have below : ∀ m : Fin 5, ring (requesterAt m) = (List.range 5).map fun j => requesterAt (m + j) := by decide
  have shifted : ∀ j, requesterAt (n % 5 + j) = requesterAt (n + j) := fun j => by
    rw [← requesterAt_mod, ← requesterAt_mod (n + j), Nat.mod_add_mod]
  have here := below ⟨n % 5, Nat.mod_lt n (by decide)⟩
  simpa only [requesterAt_mod, shifted] using here

theorem ringNext_requesterAt (n : Nat) : ringNext (requesterAt n) = requesterAt (n + 1) := by
  have below : ∀ m : Fin 5, ringNext (requesterAt m) = requesterAt (m + 1) := by decide
  have here := below ⟨n % 5, Nat.mod_lt n (by decide)⟩
  have shifted : requesterAt (n % 5 + 1) = requesterAt (n + 1) := by
    rw [← requesterAt_mod, ← requesterAt_mod (n + 1), Nat.mod_add_mod]
  simpa only [requesterAt_mod, shifted] using here

/-- The first requester from the pointer that has a request waiting is chosen, whatever the others have. -/
theorem choice_of_first {s : State} {a k : Nat} {v : Service} (pointer : s.arbiter = requesterAt a) (inside : k < 5)
    (before : ∀ j < k, s.waitingOf (requesterAt (a + j)) = none) (waits : s.waitingOf (requesterAt (a + k)) = some v) :
    s.choice = some (requesterAt (a + k), v) := by
  have split : List.range 5 = List.range k ++ k :: (List.range 5).drop (k + 1) := by
    have whole := List.take_append_drop k (List.range 5)
    rw [List.take_range, Nat.min_eq_left (Nat.le_of_lt inside), List.drop_eq_getElem_cons (by simpa using inside),
      List.getElem_range] at whole
    exact whole.symm
  have none : (List.range k).findSome? (fun j => (s.waitingOf (requesterAt (a + j))).map
      fun v => (requesterAt (a + j), v)) = none :=
    List.findSome?_eq_none_iff.2 fun j hj => by rw [before j (List.mem_range.1 hj), Option.map_none]
  rw [State.choice, pointer, ring_requesterAt, List.findSome?_map, split, List.findSome?_append]
  exact (congrArg (Option.or · _) none).trans (by simp [waits])

theorem waitingOf_of_nothing {s : State} {x : Requester} (nothing : NothingWaitingAt s x) : s.waitingOf x = none := by
  cases x with
  | port p => exact congrArg (Option.map _) (nothing : (s.unit p).request = none)
  | scrub => exact congrArg (Option.map _) (nothing : s.scrubRequest = none)

theorem arbitrate_of_scrub {s : State} {x : Requester} {q : ScrubRequest} (chosen : s.choice = some (x, .scrub q)) :
    s.arbitrate = { s.takeWaiting x with memPort := .serving (.scrub q) } := by
  rw [State.arbitrate, State.arbitrateFuel, chosen]

/-- A request that the directory admits, with a byte to move, goes into service (R92, R95). -/
theorem arbitrate_of_admitted {s : State} {x : Requester} {r : Request} (chosen : s.choice = some (x, .window r false))
    (admitted : s.grantFault r = none) (bytes : ¬ (r.access = .write ∧ r.enables = 0)) :
    s.arbitrate = { s.takeWaiting x with memPort := .serving (.window r false) } := by
  have same : (s.takeWaiting x).grantFault r = none := by
    unfold State.grantFault
    rw [takeWaiting_entry]
    exact admitted
  rw [State.arbitrate, State.arbitrateFuel, chosen]
  simp only [serveWindow_admitted same bytes, Bool.false_eq_true, if_false]

/-- Settles O59: at the end of a refresh the arbiter chooses in ring order (`choice_of_first`). -/
theorem refreshEvents : Obligations.RefreshEvents := by
  intro s
  have complete : s.memPort = .refresh → s.refreshEnd ≤ s.now → exec .refreshComplete s = .next s.afterService :=
    fun port time => if_pos ⟨port, time⟩
  have chooses : s.refreshDue = false → s.afterService = s.arbitrate := fun due => by
    simp only [State.afterService, due, Bool.false_eq_true, if_false]
  refine ⟨fun up time idle => ?_, fun up time busy => ?_, fun early => ?_, fun port time due => ?_,
    fun port time due none => ?_, fun q port time due ports scrub => ?_,
    fun a k port time due pointer inside before => ⟨fun p r at_ request holds admits => ?_, fun q at_ scrub => ?_⟩,
    fun early => ?_⟩
  · show execRefreshTimerExpiry s = _
    rw [execRefreshTimerExpiry, if_pos ⟨up, time⟩]
    exact if_pos idle
  · show execRefreshTimerExpiry s = _
    rw [execRefreshTimerExpiry, if_pos ⟨up, time⟩]
    exact if_neg busy
  · exact if_neg fun h => Nat.not_le.2 early h.2
  · rw [complete port time, State.afterService, if_pos due, State.beginRefresh, ← port]
  · rw [complete port time, chooses due, arbitrate_none none]
  · rw [complete port time, chooses due, arbitrate_scrub scrub ports]
  · have waits : s.waitingOf (requesterAt (a + k)) = some (.window r false) := by
      rw [at_, State.waitingOf, request, Option.map_some]
    have chosen := choice_of_first pointer inside (fun j hj => waitingOf_of_nothing (before j hj)) waits
    have admitted : s.grantFault r = none ∧ ¬ (r.access = .write ∧ r.enables = 0) := by
      rcases admits with ⟨read, sound⟩ | ⟨priv, bytes⟩
      · simp [State.grantFault, holds, sound, read]
      · exact ⟨by simp [State.grantFault, holds, priv], fun none => bytes none.2⟩
    rw [complete port time, chooses due, arbitrate_of_admitted chosen admitted.1 admitted.2, at_, State.takeWaiting,
      ← at_, ringNext_requesterAt, Nat.add_assoc]
  · have waits : s.waitingOf (requesterAt (a + k)) = some (.scrub q) := by
      rw [at_, State.waitingOf, scrub, Option.map_some]
    have chosen := choice_of_first pointer inside (fun j hj => waitingOf_of_nothing (before j hj)) waits
    rw [complete port time, chooses due, arbitrate_of_scrub chosen, at_, State.takeWaiting, ← at_, ringNext_requesterAt,
      Nat.add_assoc]
  · exact if_neg fun h => Nat.not_le.2 early h.2

/-! ### A recall that runs out (R61 to R63) -/

section Expiry

variable {f : Nat} {s : State} {r : RecallRec}

/-- The part with the ports of a to-release set revoked (R62, R63). -/
def revokedAsked (s : State) (r : RecallRec) : State :=
  (s.putEntry r.frame { s.entry r.frame with holders := withoutSet (s.entry r.frame).holders r.toRelease }).postSet
    r.toRelease (.revoked r.frame .timeout)

theorem expireRecall_eq (s : State) (r : RecallRec) :
    s.expireRecall r = ((revokedAsked s r).dropRecall r.frame).afterLeaving true r.frame := rfl

/-- Every holder is asked, so none is left. -/
theorem effect_revokedAsked (asked : (s.entry r.frame).holders = r.toRelease) :
    Effect r.frame s (revokedAsked s r) { s.entry r.frame with holders := noPorts }
      (fun q => if r.toRelease.get q = true then postUnit (heldOneLess (s.unit q)) (.revoked r.frame .timeout)
        else s.unit q) s.recalls s.deferred s.poolFree := by
  have none : withoutSet (s.entry r.frame).holders r.toRelease = noPorts := perPort_ext fun q => by
    rw [withoutSet_get, asked, Bool.and_not_self, noPorts_get]
  unfold revokedAsked
  rw [none]
  have removed := effect_putEntry s r.frame { s.entry r.frame with holders := noPorts }
  refine (removed.trans (effect_postSet _ r.frame _ _)).congr removed.entry (fun q => ?_) rfl rfl rfl
  rw [removed.units, asked]
  by_cases held : r.toRelease.get q = true
  · rw [if_pos held, if_pos held, held, noPorts_get]
    rfl
  · rw [if_neg held, if_neg held, Bool.eq_false_iff.2 held, noPorts_get, holdingMoved_same]

theorem directoryChange_expireRecall (s : State) (r : RecallRec) : DirectoryChange s (s.expireRecall r) :=
  ((directoryChange_putEntry s r.frame _).trans (directoryChange_postSet _ _ _)).trans
    ((directoryChange_dropRecall _ _).trans (directoryChange_afterLeaving _ _ _))

/-- The only waiter, no holder itself, takes the frame, forced (R38). -/
theorem effect_expireRecall {i : Fin 8} {w : WaitRec} (active : (s.entry r.frame).recallField = .active i)
    (used : inUse (s.entry r.frame).state = true) (asked : (s.entry r.frame).holders = r.toRelease)
    (queue : (s.entry r.frame).queue = [w]) (empty : s.deferred = []) :
    Effect r.frame s (s.expireRecall r)
      { state := heldState w.mode, holders := onePort w.port, pinned := false, queue := [], recallField := .none }
      (fun q =>
        let u := if r.toRelease.get q = true then postUnit (heldOneLess (s.unit q)) (.revoked r.frame .timeout)
          else s.unit q
        if q = w.port then grantedTo u false (.grant r.frame w.mode w.tag true false false) else u)
      (s.recalls.set i none) [] (s.poolFree + 1) := by
  have revoked := effect_revokedAsked asked
  have gone := effect_dropRecall (s := revokedAsked s r) (f := r.frame)
    (.inr (.inr ⟨i, by rw [revoked.entry]; exact active, revoked.deferred.trans empty⟩))
  have served := effect_afterLeaving_grants (s := (revokedAsked s r).dropRecall r.frame) (f := r.frame) (w := w) true
    (by rw [gone.entry, revoked.entry]; exact used) (by rw [gone.entry, revoked.entry])
    (by rw [gone.entry, revoked.entry]; exact queue) (by rw [gone.entry])
  rw [expireRecall_eq]
  refine ((revoked.trans gone).trans served).congr rfl (fun q => ?_) ?_ ?_ ?_
  · rw [gone.units, revoked.units]
  · rw [gone.recalls, revoked.entry, revoked.recalls]
    simp only [active]
    rfl
  · rw [gone.deferred, revoked.entry, revoked.deferred]
    simp only [active]
    exact empty
  · rw [gone.poolFree, revoked.poolFree]

end Expiry

/-- Settles O60: no holder is left, so the frame passes to its waiter as in a release (`effect_expireRecall`). -/
theorem recallDeadlineRevokes : Obligations.RecallDeadlineRevokes := by
  intro f s
  refine ⟨fun i r active slot frame early => ?_, fun idle => ?_,
    fun i r w active slot frame late used asked queue away empty => ?_⟩
  · show execRecallDeadline f s = _
    simp only [execRecallDeadline, State.recallOf, active, slot, Option.map_some]
    exact if_neg fun h => Nat.not_le.2 early h.2
  · show execRecallDeadline f s = _
    have none : s.recallOf f = none := by
      cases field : (s.entry f).recallField with
      | none => simp only [State.recallOf, field]
      | deferred => simp only [State.recallOf, field]
      | active i => exact absurd field (idle i)
    simp only [execRecallDeadline, none]
  · subst frame
    have done : exec (.recallDeadline r.frame) s = .next (s.expireRecall r) := by
      show execRecallDeadline r.frame s = _
      simp only [execRecallDeadline, State.recallOf, active, slot, Option.map_some]
      exact if_pos ⟨trivial, late⟩
    have expired := effect_expireRecall active used asked queue empty
    have change := (directoryChange_expireRecall s r).1
    refine ⟨_, done, expired.entry, expired.recalls, expired.deferred, expired.poolFree, fun q held => ?_, ?_,
      fun q unasked apart => ?_, expired.others, (congrArg State.memory change :), (congrArg State.memPort change :)⟩
    · have apart : q ≠ w.port := fun same => by
        rw [same, away] at held
        cases held
      rw [expired.units, if_neg apart, if_pos held]
      rfl
    · rw [expired.units, if_pos rfl, if_neg (by rw [away]; decide)]
      rfl
    · rw [expired.units, if_neg apart, if_neg (by rw [unasked]; decide)]

end Sys2Proof.Proofs
end

section
/-! PROOFS. A burst performed without an error: O56. -/

namespace Sys2Proof.Proofs
set_option Elab.async false

open Sys2Proof.Machine Sys2Proof.Safety Sys2Proof.Laws

/-! ### The memory port's next choice touches the ports whose requests it takes -/

theorem repair_unit_ne {s : State} {r : Request} {q : Port} (cause : FaultCause) (apart : q ≠ r.port) :
    (s.repair r cause).unit q = s.unit q := by
  unfold State.repair
  split
  · rfl
  · split
    · split
      · exact setUnit_unit_ne _ _ apart
      · exact setUnit_unit_ne _ _ apart
      · rfl
    · rfl

theorem serveWindow_unit_ne {s : State} {r : Request} {q : Port} (apart : q ≠ r.port) :
    (s.serveWindow r).1.unit q = s.unit q := by
  cases fault : s.grantFault r with
  | some cause =>
    rw [serveWindow_fault fault]
    refine (setUnit_unit_ne _ _ apart).trans ?_
    rw [post_unit, if_neg apart, repair_unit_ne cause apart]
  | none =>
    by_cases noByte : r.access = .write ∧ r.enables = 0
    · rw [serveWindow_noByte fault noByte]
      exact setUnit_unit_ne _ _ apart
    · rw [serveWindow_admitted fault noByte]
      rfl

/-- Every waiting request is its port's own, and one port has none: what the arbiter does leaves that port's unit. -/
structure Bystander (q : Port) (u : PortUnit) (s : State) : Prop where
  own : ∀ p r, (s.unit p).request = some r → r.port = p
  none : (s.unit q).request = none
  unit : s.unit q = u

theorem Bystander.takeWaiting {q : Port} {u : PortUnit} {s : State} (h : Bystander q u s) {p : Port} {r : Request}
    (request : (s.unit p).request = some r) : q ≠ p ∧ Bystander q u (s.takeWaiting (.port p)) := by
  have apart : q ≠ p := fun same => by
    rw [← same, h.none] at request
    cases request
  have unit : (s.takeWaiting (.port p)).unit q = s.unit q := by
    rw [takeWaiting_unit, if_neg (by simpa using Ne.symm apart)]
  refine ⟨apart, fun p' r' request' => ?_, by rw [unit]; exact h.none, unit.trans h.unit⟩
  rw [takeWaiting_unit] at request'
  split at request'
  · cases request'
  · exact h.own p' r' request'

theorem Bystander.arbitrate {q : Port} {u : PortUnit} {s : State} (h : Bystander q u s) : s.arbitrate.unit q = u := by
  refine arbitrate_induct (I := Bystander q u) (G := fun t => t.unit q = u) s ?_ ?_ ?_ ?_ ?_ h
  · exact fun t ht _ => ht.unit
  · exact fun t v ht _ => ht.unit
  · exact fun t p r ht request _ => (ht.takeWaiting request).2.unit
  · intro t p r ht request ends
    obtain ⟨apart, taken⟩ := ht.takeWaiting request
    have away : q ≠ r.port := by
      rw [ht.own p r request]
      exact apart
    have kept := (portKept_serveWindow ends).1
    exact ⟨fun p' r' request' => taken.own p' r' ((kept.request p').symm.trans request'),
      (kept.request q).trans taken.none, (serveWindow_unit_ne away).trans taken.unit⟩
  · exact fun t ht _ => ht.unit

theorem Bystander.afterService {q : Port} {u : PortUnit} {s : State} (h : Bystander q u s) : s.afterService.unit q = u := by
  unfold State.afterService
  split
  · exact h.unit
  · exact h.arbitrate

/-- The port of the request in service has none waiting (R101), so its unit waits for the memory port's next choice. -/
theorem bystander_of_service {s t : State} {r : Request} {d : Bool} (one : OneRequestEach s)
    (port : s.memPort = .serving (.window r d)) (requests : ∀ p, (t.unit p).request = (s.unit p).request) :
    Bystander r.port (t.unit r.port) t := by
  have service : s.inService r.port = true := by simp [State.inService, port]
  exact ⟨fun p r' request => (one p).2.2 r' (.inl ((requests p).symm.trans request)),
    (requests r.port).trans ((one r.port).1 service), rfl⟩

/-! ### A burst without an error in any word -/

theorem laneMask_all : laneMask 0xF = BitVec.allOnes 32 := by decide

theorem laneMask_none : laneMask 0 = 0#32 := by decide

theorem mergeBytes_all (written kept : Word) : mergeBytes 0xF written kept = written := by
  rw [mergeBytes, laneMask_all, BitVec.not_allOnes, BitVec.and_zero, BitVec.or_zero, BitVec.and_allOnes]

theorem mergeBytes_none (written kept : Word) : mergeBytes 0 written kept = kept := by
  rw [mergeBytes, laneMask_none, BitVec.and_zero, BitVec.zero_or, BitVec.not_zero, BitVec.and_allOnes]

theorem performPlaces_whole {r : Request} {upsets : List Bits39} (write : r.access = .write) (whole : r.enables = 0xF)
    (places : List Nat) (m : Memory) :
    (performPlaces r upsets places m).delivered = [] ∧ (performPlaces r upsets places m).failedAt = none ∧
      ∀ i ∈ places, readStored (performPlaces r upsets places m).memory (wordAddr r i) = ⟨r.data.getD i 0, 0⟩ := by
  have run : ∀ l m, performPlaces r upsets l m = writePlaces r l m := fun l m => by
    simp only [performPlaces, write, whole, if_true]
  induction places generalizing m with
  | nil =>
    rw [run]
    exact ⟨rfl, rfl, fun i hi => (nomatch hi)⟩
  | cons i rest ih =>
    have next : performPlaces r upsets (i :: rest) m =
        performPlaces r upsets rest (writeWord m (wordAddr r i) (r.data.getD i 0)) := by
      rw [run, run]
      rfl
    obtain ⟨delivered, failedAt, words⟩ := ih (writeWord m (wordAddr r i) (r.data.getD i 0))
    rw [next]
    refine ⟨delivered, failedAt, fun j hj => ?_⟩
    by_cases later : j ∈ rest
    · exact words j later
    · have same : j = i := (List.mem_cons.1 hj).resolve_right later
      rw [readStored_performPlaces_ne r upsets rest _ fun k hk => wordAddr_ne fun h => later (by rw [h]; exact hk), same]
      exact readStored_writeStored_same _ _ _

/-- A burst over words without a bit in error, whatever its access and its byte enables (R110 to R113). -/
theorem performBurst_sound {r : Request} {m : Memory}
    (sound : ∀ i < r.burst, (readStored m (wordAddr r i)).failed = 0) :
    (performBurst r [] m).failedAt = none ∧
      (performBurst r [] m).delivered =
        wordsOut r ((List.range r.burst).map fun i => (readStored m (wordAddr r i)).data) ∧
      ∀ i < r.burst, readStored (performBurst r [] m).memory (wordAddr r i) =
        ⟨wordAfter r i (readStored m (wordAddr r i)).data, 0⟩ := by
  have clean : ∀ i < r.burst, CleanAt m r [] i := fun i hi => by
    rw [CleanAt, sound i hi]
    simp
  cases access : r.access with
  | read => exact performBurst_clean (.inl access) clean
  | write =>
    by_cases whole : r.enables = 0xF
    · obtain ⟨delivered, failedAt, words⟩ := performPlaces_whole (upsets := []) access whole (List.range r.burst) m
      refine ⟨failedAt, delivered.trans (by rw [wordsOut, access]), fun i hi => ?_⟩
      rw [performBurst, words i (List.mem_range.2 hi), wordAfter, access, whole]
      simp only [mergeBytes_all]
    · by_cases none : r.enables = 0
      · have still : performBurst r [] m = ⟨m, [], Option.none⟩ := by
          simp only [performBurst, performPlaces, access, if_neg whole, if_pos none]
        rw [still]
        refine ⟨rfl, by rw [wordsOut, access], fun i hi => ?_⟩
        rw [wordAfter, access, none]
        simp only [mergeBytes_none, ← sound i hi]
      · exact performBurst_clean (.inr ⟨access, none, whole⟩) clean

theorem readStored_performBurst_ne {r : Request} {upsets : List Bits39} {m : Memory} {a : Nat}
    (away : ∀ i < r.burst, a ≠ wordAddr r i) : readStored (performBurst r upsets m).memory a = readStored m a :=
  readStored_performPlaces_ne r upsets _ m fun i hi => away i (List.mem_range.1 hi)

/-- Settles O56: the words by `performBurst_sound`; the memory port's next choice leaves the port's answer alone. -/
theorem burstPerformed : Obligations.BurstPerformed := by
  intro r s port one sound
  obtain ⟨failedAt, delivered, words⟩ := performBurst_sound sound
  have away := fun a => readStored_performBurst_ne (r := r) (upsets := []) (m := s.memory) (a := a)
  have run : exec (.windowRequestComplete []) s = .next (s.endPerformed r false (performBurst r [] s.memory)) := by
    show execWindowRequestComplete [] s = _
    simp only [execWindowRequestComplete, port, State.endWindow, failedAt]
  generalize performBurst r [] s.memory = b at run failedAt delivered words away
  let s1 : State := ({ s with memory := b.memory } : State).answerBus r.port false b.delivered
  have ends : s.endPerformed r false b = s1.afterService := rfl
  have change := (portChange_afterService s1).1
  have memory : s1.afterService.memory = b.memory := (congrArg State.memory change :)
  have unit : s1.afterService.unit r.port = { s.unit r.port with answer := some ⟨false, b.delivered⟩ } := by
    refine (bystander_of_service one port fun p => ?_).afterService.trans (setUnit_unit_same _ _ _)
    by_cases same : p = r.port
    · subst same
      exact (congrArg PortUnit.request (setUnit_unit_same _ _ _) :)
    · exact (congrArg PortUnit.request (setUnit_unit_ne _ _ same) :)
  refine ⟨_, run, fun a far => ?_, fun read => ⟨?_, fun a => ?_⟩, fun write => ⟨?_, fun i hi n hn => ?_⟩, fun f => ?_⟩
  · rw [ends, memory, away a far]
  · rw [ends, unit, delivered, wordsOut, read]
  · rw [ends, memory]
    by_cases inside : ∃ i < r.burst, a = wordAddr r i
    · obtain ⟨i, hi, rfl⟩ := inside
      rw [words i hi, wordAfter, read, ← sound i hi]
    · exact away a fun i hi same => inside ⟨i, hi, same⟩
  · rw [ends, unit, delivered, wordsOut, write]
  · rw [ends, memory, words i hi, wordAfter, write]
    exact ⟨mergeBytes_getLsbD r.enables _ _ hn, rfl⟩
  · rw [ends]
    exact congrArg (fun d => (Sparse.find? d f).getD Entry.reset) (congrArg State.dir change :)

end Sys2Proof.Proofs
end

section
/-! PROOFS. An access that meets an uncorrectable word: O57. -/

namespace Sys2Proof.Proofs
set_option Elab.async false

open Sys2Proof.Machine Sys2Proof.Safety Sys2Proof.Laws

/-! ### What queuing records and ending recalls leaves -/

/-- Records join queues or are discarded, and recalls change: no frame changes its state and no wait record moves. -/
structure RecordsOnly (s t : State) : Prop where
  events : ∀ q, (s.unit q).events <+: (t.unit q).events
  poisonedCount : t.poisonedCount = s.poisonedCount
  poolFree : t.poolFree = s.poolFree

theorem RecordsOnly.refl (s : State) : RecordsOnly s s := ⟨fun _ => List.prefix_refl _, rfl, rfl⟩

theorem RecordsOnly.trans {s t u : State} (h : RecordsOnly s t) (k : RecordsOnly t u) : RecordsOnly s u :=
  ⟨fun q => (h.events q).trans (k.events q), k.poisonedCount.trans h.poisonedCount, k.poolFree.trans h.poolFree⟩

theorem postUnit_events (u : PortUnit) (r : EventRecord) : u.events <+: (postUnit u r).events := by
  rcases postUnit_cases u r with ⟨-, eq⟩ | ⟨-, -, eq⟩ | ⟨-, -, eq⟩
  · rw [eq]
  · rw [eq]
    exact List.prefix_append _ _
  · rw [eq]

theorem recordsOnly_post (s : State) (p : Port) (r : EventRecord) : RecordsOnly s (s.post p r) := by
  refine ⟨fun q => ?_, rfl, rfl⟩
  rw [post_unit]
  split
  next same =>
    rw [same]
    exact postUnit_events _ r
  next => exact List.prefix_refl _

theorem recordsOnly_postList (l : List Port) (s : State) (r : EventRecord) : RecordsOnly s (s.postList l r) := by
  induction l generalizing s with
  | nil => exact RecordsOnly.refl s
  | cons p rest ih => exact (recordsOnly_post s p r).trans (ih _)

theorem recordsOnly_postSet (s : State) (ps : PortSet) (r : EventRecord) : RecordsOnly s (s.postSet ps r) :=
  recordsOnly_postList _ s r

theorem recordsOnly_setRecalls (s : State) (v : Vector (Option RecallRec) 8) : RecordsOnly s { s with recalls := v } :=
  ⟨fun _ => List.prefix_refl _, rfl, rfl⟩

theorem recordsOnly_setDeferred (s : State) (l : List Deferred) : RecordsOnly s { s with deferred := l } :=
  ⟨fun _ => List.prefix_refl _, rfl, rfl⟩

theorem recordsOnly_putEntry (s : State) {f : Nat} {e : Entry} (same : e.state = (s.entry f).state := by rfl) :
    RecordsOnly s (s.putEntry f e) := by
  refine ⟨fun q => ?_, ?_, rfl⟩
  · rw [putEntry_unit]
  · show countChange _ _ s.poisonedCount = _
    rw [same, countChange_same]

theorem recordsOnly_startRecall (s : State) (f : Nat) (i : Fin 8) : RecordsOnly s (s.startRecall f i) := by
  cases queue : (s.entry f).queue with
  | nil =>
    have still : s.startRecall f i = s := by
      unfold State.startRecall
      simp only [queue]
    rw [still]
    exact RecordsOnly.refl s
  | cons h rest =>
    rw [startRecall_eq i queue]
    refine (recordsOnly_setRecalls s (s.recalls.set i (some (newRecord s f h)))).trans ?_
    exact RecordsOnly.trans (recordsOnly_putEntry ({ s with recalls := _ } : State)) (recordsOnly_postSet _ _ _)

theorem recordsOnly_feedDeferred (i : Fin 8) (l : List Deferred) (s : State) :
    RecordsOnly s (State.feedDeferred i l s) := by
  induction l generalizing s with
  | nil => exact ⟨fun _ => List.prefix_refl _, rfl, rfl⟩
  | cons d rest ih =>
    cases needs : needsRecall (s.entry d.frame) with
    | true =>
      rw [feedDeferred_needed needs]
      exact (recordsOnly_setDeferred s rest).trans (recordsOnly_startRecall _ _ _)
    | false =>
      rw [feedDeferred_dropped needs]
      exact (recordsOnly_putEntry s).trans (ih _)

theorem recordsOnly_dropRecall (s : State) (f : Nat) : RecordsOnly s (s.dropRecall f) := by
  cases field : (s.entry f).recallField with
  | none =>
    rw [dropRecall_none field]
    exact RecordsOnly.refl s
  | deferred =>
    rw [dropRecall_deferred field]
    exact (recordsOnly_setDeferred s _).trans (recordsOnly_putEntry ({ s with deferred := _ } : State))
  | active i =>
    rw [dropRecall_active field]
    refine (recordsOnly_setRecalls s (s.recalls.set i none)).trans ?_
    exact RecordsOnly.trans (recordsOnly_putEntry ({ s with recalls := _ } : State)) (recordsOnly_feedDeferred _ _ _)

/-! ### The waiters of a poisoned frame (R50) -/

/-- A port's unit when its claim is refused. -/
def refusedTo (f : Nat) (u : PortUnit) (w : Option WaitRec) : PortUnit :=
  match w with
  | none => u
  | some w => postUnit { u with waiting := u.waiting - 1 } (.refused f w.tag)

theorem refuseOne_unit (s : State) (f : Nat) (w : WaitRec) (q : Port) :
    ((s.returnRecord w.port).post w.port (.refused f w.tag)).unit q =
      if q = w.port then refusedTo f (s.unit q) (some w) else s.unit q := by
  have returned := effect_returnRecord s f w.port
  have told := effect_post (s.returnRecord w.port) f w.port (.refused f w.tag)
  rw [told.units, returned.units]
  split
  next same => rfl
  next => rfl

theorem refuseWaiters_unit (f : Nat) (l : List WaitRec) (s : State) (once : (l.map WaitRec.port).Nodup) (q : Port) :
    (State.refuseWaiters f l s).unit q = refusedTo f (s.unit q) (l.find? fun w => w.port == q) := by
  induction l generalizing s with
  | nil => rfl
  | cons w rest ih =>
    obtain ⟨fresh, once⟩ := List.nodup_cons.1 (List.map_cons ▸ once)
    rw [State.refuseWaiters, ih _ once, refuseOne_unit]
    by_cases same : q = w.port
    · have none : rest.find? (fun w => w.port == q) = none := List.find?_eq_none.2 fun x hx => by
        simpa [same] using fun alike => fresh (by rw [← alike]; exact List.mem_map_of_mem hx)
      rw [if_pos same, none, List.find?_cons_of_pos (by simp [same])]
      rfl
    · rw [if_neg same, List.find?_cons_of_neg (by simpa using Ne.symm same)]

theorem refuseWaiters_events (f : Nat) (l : List WaitRec) (s : State) (q : Port) :
    (s.unit q).events <+: ((State.refuseWaiters f l s).unit q).events := by
  induction l generalizing s with
  | nil => exact List.prefix_refl _
  | cons w rest ih =>
    refine List.IsPrefix.trans ?_ (ih _)
    rw [refuseOne_unit]
    split
    next => exact postUnit_events { s.unit q with waiting := (s.unit q).waiting - 1 } _
    next => exact List.prefix_refl _

theorem refuseWaiters_poisonedCount (f : Nat) (l : List WaitRec) (s : State) :
    (State.refuseWaiters f l s).poisonedCount = s.poisonedCount := by
  induction l generalizing s with
  | nil => rfl
  | cons w rest ih => exact ih _

/-! ### Poisoning (R116, R117) -/

section Poison

variable (s : State) (f : Nat) (accessor : Option Port)

/-- The ports that are told of the poisoning: the holders and the accessing port. -/
def poisonTold (e : Entry) (accessor : Option Port) : PortSet :=
  match accessor with
  | some p => e.holders.set p true
  | none => e.holders

/-- The part with a frame POISONED and its recall gone, nobody told yet. -/
def poisonedFrame : State := (s.putEntry f { s.entry f with state := .poisoned, pinned := false }).dropRecall f

/-- The part with everybody told and the waiters refused. -/
def poisonedTold : State :=
  State.refuseWaiters f (s.entry f).queue
    ((poisonedFrame s f).postSet (poisonTold (s.entry f) accessor) (.poisoned f))

theorem poison_eq : s.poison f accessor =
    (poisonedTold s f accessor).putEntry f { (poisonedTold s f accessor).entry f with queue := [] } := rfl

theorem poisonedTold_entry : (poisonedTold s f accessor).entry f =
    { s.entry f with state := .poisoned, pinned := false, recallField := .none } := by
  have unused : needsRecall ((s.putEntry f { s.entry f with state := .poisoned, pinned := false }).entry f) = false := by
    rw [entry_putEntry_same]
    exact needsRecall_unused rfl
  rw [poisonedTold, refuseWaiters_entry, postSet_entry, poisonedFrame, dropRecall_entry_self unused, entry_putEntry_same]

theorem poison_entry_self : (s.poison f accessor).entry f =
    { state := .poisoned, holders := (s.entry f).holders, pinned := false, queue := [], recallField := .none } := by
  rw [poison_eq, entry_putEntry_same, poisonedTold_entry]

theorem poison_entry_other {g : Nat} (apart : g ≠ f) :
    (s.poison f accessor).entry g = { s.entry g with recallField := ((s.poison f accessor).entry g).recallField } := by
  have change := poison_entry s f accessor g
  rw [if_neg apart] at change
  exact change

theorem poison_events (q : Port) : (s.unit q).events <+: ((s.poison f accessor).unit q).events := by
  have first : (s.unit q).events <+: ((poisonedFrame s f).unit q).events := by
    refine List.IsPrefix.trans ?_ ((recordsOnly_dropRecall _ f).events q)
    rw [putEntry_unit]
  have told := (recordsOnly_postSet (poisonedFrame s f) (poisonTold (s.entry f) accessor) (.poisoned f)).events q
  rw [poison_eq, putEntry_unit]
  exact (first.trans told).trans (refuseWaiters_events f _ _ q)

theorem poison_poisonedCount (used : inUse (s.entry f).state = true) :
    (s.poison f accessor).poisonedCount = s.poisonedCount + 1 := by
  have sound : ((s.entry f).state == .poisoned) = false := by
    revert used
    cases (s.entry f).state <;> simp [inUse]
  have first : (poisonedFrame s f).poisonedCount = s.poisonedCount + 1 := by
    refine (recordsOnly_dropRecall _ f).poisonedCount.trans ?_
    show countChange ((s.entry f).state == .poisoned) _ s.poisonedCount = _
    rw [sound]
    rfl
  rw [poison_eq]
  refine (recordsOnly_putEntry _).poisonedCount.trans ?_
  rw [poisonedTold, refuseWaiters_poisonedCount]
  exact (recordsOnly_postSet _ _ _).poisonedCount.trans first

theorem poison_poolFree : (s.poison f accessor).poolFree = s.poolFree + (s.entry f).queue.length := by
  have first : (poisonedFrame s f).poolFree = s.poolFree := (recordsOnly_dropRecall _ f).poolFree
  rw [poison_eq]
  refine (recordsOnly_putEntry _).poolFree.trans ?_
  rw [poisonedTold, refuseWaiters_poolFree]
  exact congrArg (· + _) ((recordsOnly_postSet _ _ _).poolFree.trans first)

/-- With no frame deferred: a POISONED record to each port that is told, then a REFUSED one to each waiter. -/
theorem poison_unit (empty : s.deferred = []) (once : ((s.entry f).queue.map WaitRec.port).Nodup) (q : Port) :
    (s.poison f accessor).unit q =
      refusedTo f (if (poisonTold (s.entry f) accessor).get q = true then postUnit (s.unit q) (.poisoned f)
        else s.unit q) ((s.entry f).queue.find? fun w => w.port == q) := by
  have first : (poisonedFrame s f).unit q = s.unit q :=
    (dropRecall_unit f (by exact empty) q).trans (putEntry_unit_same (by rfl))
  rw [poison_eq, putEntry_unit_same (by rfl), poisonedTold, refuseWaiters_unit f _ _ once, postSet_unit, first]

end Poison

/-! ### The three stages of the ending (R115 to R119) -/

section Ending

variable (s : State) (r : Request) (d : Bool)

/-- The FAULT record of the failing word. -/
def errorRecord (r : Request) (place : Nat) : EventRecord :=
  .fault (r.addr + 4 * place) r.context r.access r.burst .uncorrectable

/-- The array as the burst left it, and the FAULT record queued where the answer is wanted. -/
def errorFaulted (b : BurstResult) (place : Nat) : State :=
  if d then { s with memory := b.memory }
  else ({ s with memory := b.memory } : State).post r.port (errorRecord r place)

/-- The frame poisoned where it is still in use. -/
def errorPoisoned : State :=
  if inUse (s.entry r.frame).state then s.poison r.frame (if d then none else some r.port) else s

/-- The bus answered, or the access posted that has waited behind the discarded request. -/
def errorEnded (data : List Word) : State :=
  if d then s.postHeld r.port else s.answerBus r.port true data

theorem endUncorrectable_stages (b : BurstResult) (place : Nat) :
    s.endUncorrectable r d b place =
      (errorEnded (errorPoisoned (errorFaulted s r d b place) r d) r d b.delivered).afterService := rfl

theorem errorFaulted_unit (b : BurstResult) (place : Nat) (q : Port) :
    (errorFaulted s r d b place).unit q =
      if q = r.port ∧ d = false then postUnit (s.unit q) (errorRecord r place) else s.unit q := by
  cases d with
  | true => simp [errorFaulted, State.unit]
  | false =>
    refine (post_unit ({ s with memory := b.memory } : State) r.port q _).trans ?_
    by_cases same : q = r.port
    · rw [if_pos same, if_pos ⟨same, rfl⟩, same]
      rfl
    · rw [if_neg same, if_neg fun h => same h.1]
      rfl

/-- Beside the array and the port's records the FAULT record changes nothing. -/
theorem errorFaulted_rest (b : BurstResult) (place : Nat) :
    errorFaulted s r d b place =
      { s with memory := b.memory, ports := (errorFaulted s r d b place).ports } := by
  cases d <;> rfl

theorem errorPoisoned_inUse (used : inUse (s.entry r.frame).state = true) :
    errorPoisoned s r d = s.poison r.frame (if d then none else some r.port) := if_pos used

theorem errorPoisoned_unused (unused : inUse (s.entry r.frame).state = false) : errorPoisoned s r d = s :=
  if_neg (by rw [unused]; decide)

theorem directoryChange_errorPoisoned : DirectoryChange s (errorPoisoned s r d) := by
  unfold errorPoisoned
  split
  · exact directoryChange_poison _ _ _
  · exact DirectoryChange.refl s

theorem errorPoisoned_events (q : Port) : (s.unit q).events <+: ((errorPoisoned s r d).unit q).events := by
  unfold errorPoisoned
  split
  · exact poison_events s r.frame _ q
  · exact List.prefix_refl _

/-- The bus's answer and the access posted are the affair of the request's port alone. -/
theorem errorEnded_rest (data : List Word) :
    errorEnded s r d data = { s with ports := (errorEnded s r d data).ports } := by
  cases d with
  | false => rfl
  | true =>
    unfold errorEnded
    rw [if_pos rfl, postHeld_eq]
    rfl

theorem errorEnded_unit (data : List Word) (held : (s.unit r.port).held = none) (q : Port) :
    (errorEnded s r d data).unit q =
      if q = r.port ∧ d = false then { s.unit q with answer := some ⟨true, data⟩ } else s.unit q := by
  cases d with
  | false =>
    refine (setUnit_unit s r.port q _).trans ?_
    by_cases same : q = r.port
    · subst same
      rw [if_pos rfl, if_pos ⟨rfl, rfl⟩]
    · rw [if_neg same, if_neg fun h => same h.1]
  | true =>
    have still : errorEnded s r true data = s := by
      simp only [errorEnded, if_true, State.postHeld, held]
    rw [still, if_neg (by simp)]

end Ending

/-! ### What the array shows after an uncorrectable word -/

section Array

variable {r : Request} {upsets : List Bits39} {m : Memory} {place : Nat}

/-- A read leaves all data of the array as they are. -/
theorem performBurst_stops_read (read : r.access = .read) (inside : place < r.burst)
    (clean : ∀ i < place, CleanAt m r upsets i)
    (bad : verdictOf ((readStored m (wordAddr r place)).failed ^^^ upsets.getD place 0) = .uncorrectable) (a : Nat) :
    (readStored (performBurst r upsets m).memory a).data = (readStored m a).data := by
  obtain ⟨-, -, words, found, others⟩ := performBurst_stops (.inl read) inside clean bad
  by_cases near : ∃ i ≤ place, a = wordAddr r i
  · obtain ⟨i, hi, rfl⟩ := near
    rcases Nat.lt_or_eq_of_le hi with before | rfl
    · rw [words i before, wordAfter, read]
    · rw [found]
  · rw [others a fun i hi same => near ⟨i, hi, same⟩]

end Array

/-- An access that meets an uncorrectable word: what the memory port's next choice finds. -/
structure ErrorEnds (r : Request) (d : Bool) (s : State) (b : BurstResult) (place : Nat) (t : State) : Prop where
  memory : t.memory = b.memory
  answer : d = false → (t.unit r.port).answer = some ⟨true, b.delivered⟩
  events : d = false → (postUnit (s.unit r.port) (errorRecord r place)).events <+: (t.unit r.port).events
  poisoned : inUse (s.entry r.frame).state = true →
    t.entry r.frame =
        { state := .poisoned, holders := (s.entry r.frame).holders, pinned := false, queue := [],
          recallField := .none } ∧
      t.poisonedCount = s.poisonedCount + 1 ∧ t.poolFree = s.poolFree + (s.entry r.frame).queue.length
  unused : inUse (s.entry r.frame).state = false → t.entry r.frame = s.entry r.frame
  others : ∀ g, g ≠ r.frame → t.entry g = { s.entry g with recallField := (t.entry g).recallField }

theorem errorEnds {r : Request} {d : Bool} {s : State} (port : s.memPort = .serving (.window r d))
    (one : OneRequestEach s) (b : BurstResult) (place : Nat) :
    ErrorEnds r d s b place (s.endUncorrectable r d b place) := by
  rw [endUncorrectable_stages]
  have faulted := errorFaulted_rest s r d b place
  have faultedUnit := errorFaulted_unit s r d b place
  generalize errorFaulted s r d b place = t1 at faulted faultedUnit
  have entry1 : ∀ g, t1.entry g = s.entry g := fun g => by rw [faulted]; rfl
  have kept := (portKept_of_directoryChange (directoryChange_errorPoisoned t1 r d)).request
  have change := (directoryChange_errorPoisoned t1 r d).1
  have poison := errorPoisoned_inUse t1 r d
  have sound := errorPoisoned_unused t1 r d
  have grown := errorPoisoned_events t1 r d r.port
  generalize errorPoisoned t1 r d = t2 at kept change poison sound grown
  have requests : ∀ p, (t2.unit p).request = (s.unit p).request := fun p => by
    rw [kept, faultedUnit]
    split
    · rw [postUnit_touches]
    · rfl
  have unit : d = false → (errorEnded t2 r d b.delivered).afterService.unit r.port =
      { t2.unit r.port with answer := some ⟨true, b.delivered⟩ } := by
    rintro rfl
    refine (bystander_of_service one port fun p => ?_).afterService.trans (setUnit_unit_same t2 r.port _)
    refine Eq.trans ?_ (requests p)
    by_cases same : p = r.port
    · subst same
      exact (congrArg PortUnit.request (setUnit_unit_same t2 r.port _) :)
    · exact (congrArg PortUnit.request (setUnit_unit_ne t2 _ same) :)
  have ended := errorEnded_rest t2 r d b.delivered
  generalize errorEnded t2 r d b.delivered = t3 at unit ended
  have last := (portChange_afterService t3).1
  have entry : ∀ g, t3.afterService.entry g = t2.entry g := fun g => by rw [last, ended]; rfl
  refine ⟨?_, fun wanted => ?_, fun wanted => ?_, fun used => ?_, fun unused => ?_, fun g apart => ?_⟩
  · rw [last, ended, change, faulted]
  · rw [unit wanted]
  · rw [unit wanted]
    rw [faultedUnit, if_pos ⟨rfl, wanted⟩] at grown
    exact grown
  · rw [← entry1] at used
    have count : t3.afterService.poisonedCount = t2.poisonedCount := by rw [last, ended]
    have pool : t3.afterService.poolFree = t2.poolFree := by rw [last, ended]
    rw [entry, count, pool, poison used, poison_entry_self, poison_poisonedCount t1 _ _ used, poison_poolFree, entry1]
    exact ⟨rfl, by rw [faulted], by rw [faulted]⟩
  · rw [entry, sound (by rw [entry1]; exact unused), entry1]
  · rw [entry]
    cases used : inUse (s.entry r.frame).state with
    | true =>
      rw [← entry1] at used
      rw [poison used, poison_entry_other t1 r.frame _ apart, entry1]
    | false => rw [sound (by rw [entry1]; exact used), entry1]

/-- With no request waiting and no frame deferred, every port's unit after the access has ended. -/
theorem endUncorrectable_unit {r : Request} {d : Bool} {s : State} (none : NoneWaiting s)
    (held : (s.unit r.port).held = .none) (empty : s.deferred = []) (used : inUse (s.entry r.frame).state = true)
    (once : ((s.entry r.frame).queue.map WaitRec.port).Nodup) (b : BurstResult) (place : Nat) (q : Port) :
    let u0 := if q = r.port ∧ d = false then postUnit (s.unit q) (errorRecord r place) else s.unit q
    let u1 := if (q = r.port ∧ d = false) ∨ (s.entry r.frame).holders.get q = true then
      postUnit u0 (.poisoned r.frame) else u0
    let u2 := refusedTo r.frame u1 ((s.entry r.frame).queue.find? fun w => w.port == q)
    (s.endUncorrectable r d b place).unit q =
      if q = r.port ∧ d = false then { u2 with answer := some ⟨true, b.delivered⟩ } else u2 := by
  intro u0 u1 u2
  rw [endUncorrectable_stages]
  have faulted := errorFaulted_rest s r d b place
  have faultedUnit := errorFaulted_unit s r d b place
  generalize errorFaulted s r d b place = t1 at faulted faultedUnit
  have entry1 : t1.entry r.frame = s.entry r.frame := by rw [faulted]; rfl
  have kept := portKept_of_directoryChange (directoryChange_errorPoisoned t1 r d)
  have poison := errorPoisoned_inUse t1 r d (by rw [entry1]; exact used)
  have told : ∀ x, (t1.poison r.frame x).unit q =
      refusedTo r.frame (if (poisonTold (s.entry r.frame) x).get q = true then postUnit u0 (.poisoned r.frame) else u0)
        ((s.entry r.frame).queue.find? fun w => w.port == q) := fun x => by
    rw [poison_unit t1 r.frame x (by rw [faulted]; exact empty) (by rw [entry1]; exact once) q, entry1, faultedUnit]
  have asked : (poisonTold (s.entry r.frame) (if d then .none else some r.port)).get q = true ↔
      (q = r.port ∧ d = false) ∨ (s.entry r.frame).holders.get q = true := by
    cases d with
    | true => simp [poisonTold]
    | false =>
      simp only [poisonTold, Bool.false_eq_true, if_false, perPort_get_set]
      by_cases same : q = r.port <;> simp [same]
  have unit2 : (errorPoisoned t1 r d).unit q = u2 := by
    rw [poison, told]
    simp only [asked]
    rfl
  generalize errorPoisoned t1 r d = t2 at kept unit2
  have held2 : (t2.unit r.port).held = .none := by
    rw [kept.held, faultedUnit]
    split
    · rw [postUnit_touches]
      exact held
    · exact held
  have requests : ∀ p, (t2.unit p).request = .none := fun p => by
    rw [kept.request, faultedUnit]
    split
    · rw [postUnit_touches]
      exact none.2 p
    · exact none.2 p
  have unit3 := errorEnded_unit t2 r d b.delivered held2
  generalize errorEnded t2 r d b.delivered = t3 at unit3
  have requests3 : ∀ p, (t3.unit p).request = .none := fun p => by
    rw [unit3]
    split
    · exact requests p
    · exact requests p
  have bystander : Bystander q (t3.unit q) t3 :=
    ⟨fun p r' request => (nomatch (requests3 p).symm.trans request), requests3 q, rfl⟩
  rw [bystander.afterService, unit3, unit2]

/-- Settles O57: the array by `performBurst_stops`, the rest by the three stages of the ending (`errorEnds`,
`endUncorrectable_unit`). -/
theorem uncorrectableEndsAccess : Obligations.UncorrectableEndsAccess := by
  refine ⟨fun r d s upsets place port one reads inside clean bad => ?_, fun r d s port sound => ?_⟩
  · intro e fault delivered
    obtain ⟨failedAt, data, words, found, away⟩ := performBurst_stops reads inside clean bad
    have kept := fun read => performBurst_stops_read (m := s.memory) read inside clean bad
    have unit := fun none held empty used once => endUncorrectable_unit (d := d) (s := s) (r := r) none held empty used once
      (performBurst r upsets s.memory) place
    have ends := errorEnds port one (performBurst r upsets s.memory) place
    have row1 : exec (.uncorrectableError upsets) s =
        .next (s.endUncorrectable r d (performBurst r upsets s.memory) place) := by
      show execUncorrectableError upsets s = _
      simp only [execUncorrectableError, port, failedAt]
    have row2 : exec (.windowRequestComplete upsets) s =
        .next (s.endUncorrectable r d (performBurst r upsets s.memory) place) := by
      show execWindowRequestComplete upsets s = _
      simp only [execWindowRequestComplete, port, State.endWindow, failedAt]
    generalize performBurst r upsets s.memory = b at data words found away kept unit ends row1 row2
    generalize s.endUncorrectable r d b place = t at unit ends row1 row2
    have out : b.delivered = delivered := data
    obtain ⟨memory, answer, events, poisoned, unused, others⟩ := ends
    refine ⟨t, row1, row2, fun wanted => ?_, ?_, fun read a => ?_, fun write i hi n hn => ?_, fun a far => ?_,
      fun wanted online room => ?_, poisoned, unused, others, fun used none held empty once q => ?_⟩
    · rw [answer wanted, out]
    · rw [memory, found]
    · rw [memory, kept read]
    · rw [memory, words i hi, wordAfter, write]
      exact mergeBytes_getLsbD r.enables _ _ hn
    · rw [memory, away a far]
    · obtain ⟨later, list⟩ := events wanted
      refine ⟨later, list.symm.trans ?_⟩
      simp only [postUnit, online, if_true, room, List.append_assoc]
      rfl
    · rw [← out]
      exact unit none held empty used once q
  · have clean := (performBurst_sound sound).1
    show execUncorrectableError [] s = _
    simp only [execUncorrectableError, port, clean]

end Sys2Proof.Proofs
end

section
/-! PROOFS. The scrub bursts: O58. -/

namespace Sys2Proof.Proofs
set_option Elab.async false

open Sys2Proof.Machine Sys2Proof.Safety Sys2Proof.Laws

/-! ### The words of a scrub burst (R106) -/

theorem scrubAddr_inj {q : ScrubRequest} {i j : Nat} (h : scrubAddr q i = scrubAddr q j) : i = j := by
  unfold scrubAddr at h
  omega

theorem readStored_scrubPlaces (q : ScrubRequest) (places : List Nat) (m : Memory) {i : Nat} (inside : i ∈ places) :
    readStored (scrubPlaces q places m) (scrubAddr q i) = ⟨0, 0⟩ := by
  induction places generalizing m with
  | nil => exact nomatch inside
  | cons j rest ih =>
    have next : scrubPlaces q (j :: rest) m = scrubPlaces q rest (writeWord m (scrubAddr q j) 0) := rfl
    rw [next]
    by_cases later : i ∈ rest
    · exact ih _ later
    · have same : i = j := (List.mem_cons.1 inside).resolve_right later
      rw [readStored_scrubPlaces_ne q rest _ fun k hk alike => later (by rw [scrubAddr_inj alike]; exact hk), same]
      exact readStored_writeStored_same _ _ _

/-! ### The memory port after a scrub burst -/

section AfterBurst

variable {s : State} (due : s.refreshDue = false)
include due

theorem afterService_chooses : s.afterService = s.arbitrate := by
  simp only [State.afterService, due, Bool.false_eq_true, if_false]

theorem afterService_idle (none : NoneWaiting s) : s.afterService = { s with memPort := .idle } := by
  rw [afterService_chooses due, arbitrate_none none]

theorem afterService_scrub {v : ScrubRequest} (scrub : s.scrubRequest = some v)
    (ports : ∀ p, (s.unit p).request = none) :
    s.afterService = { s with scrubRequest := none, arbiter := .port .P0, memPort := .serving (.scrub v) } := by
  rw [afterService_chooses due, arbitrate_scrub scrub ports]

/-- A burst posted while the last one is still in service is served next when nothing else waits. -/
theorem postScrub_afterService (busy : s.memPort ≠ .idle) (ports : ∀ p, (s.unit p).request = none) (f b : Nat) :
    (s.postScrub f b).afterService =
      { s with burst := b, scrubRequest := none, arbiter := .port .P0, memPort := .serving (.scrub ⟨f, b⟩) } := by
  rw [postScrub_busy busy, afterService_scrub (s := { s with burst := b, scrubRequest := some ⟨f, b⟩ }) due rfl ports]

end AfterBurst

/-! ### The head frame's scrub completes (R130, R131) -/

/-- A port's unit once the notify port is told. -/
def scrubTold (notify : Option Port) (f : Nat) (p : Port) (u : PortUnit) : PortUnit :=
  if notify = some p then postUnit u (.scrubDone f) else u

/-- The part with the head frame FREE and out of the scrub queue, and the notify port told. -/
def scrubbedHead (s : State) (d : ScrubEntry) (rest : List ScrubEntry) : State :=
  let freed := ({ s with scrubQueue := rest } : State).putEntry d.frame { s.entry d.frame with state := .free }
  match d.notify with
  | some p => freed.post p (.scrubDone d.frame)
  | none => freed

theorem effect_scrubbedHead (s : State) (d : ScrubEntry) (rest : List ScrubEntry) :
    Effect d.frame s (scrubbedHead s d rest) { s.entry d.frame with state := .free }
      (fun p => scrubTold d.notify d.frame p (s.unit p)) s.recalls s.deferred s.poolFree := by
  have popped : Effect d.frame s ({ s with scrubQueue := rest } : State) (s.entry d.frame) s.unit s.recalls s.deferred
      s.poolFree := ⟨rfl, fun _ _ => rfl, fun _ => rfl, rfl, rfl, rfl⟩
  have freed := popped.trans (effect_putEntry_sameHolders ({ s with scrubQueue := rest } : State)
    (e := { s.entry d.frame with state := .free }) rfl)
  unfold scrubbedHead
  cases notify : d.notify with
  | none => exact freed.congr rfl (fun p => by simp [scrubTold]; rfl) rfl rfl rfl
  | some p =>
    refine (freed.trans (effect_post _ d.frame p _)).congr freed.entry (fun x => ?_) rfl rfl rfl
    rw [freed.units, scrubTold]
    by_cases same : x = p
    · rw [if_pos same, if_pos (by rw [same])]
      rfl
    · rw [if_neg same, if_neg (by simpa using Ne.symm same)]
      rfl

theorem scrubbedHead_rest (s : State) (d : ScrubEntry) (rest : List ScrubEntry) :
    scrubbedHead s d rest =
      { s with dir := (scrubbedHead s d rest).dir, uninitCount := (scrubbedHead s d rest).uninitCount,
               quarantinedCount := (scrubbedHead s d rest).quarantinedCount,
               poisonedCount := (scrubbedHead s d rest).poisonedCount,
               sweepComplete := (scrubbedHead s d rest).sweepComplete, scrubQueue := rest,
               ports := (scrubbedHead s d rest).ports } := by
  unfold scrubbedHead
  cases d.notify <;> rfl

theorem scrubbedHead_uninitCount {s : State} {d : ScrubEntry} (rest : List ScrubEntry)
    (scrubbing : (s.entry d.frame).state = .scrubbing) : (scrubbedHead s d rest).uninitCount = s.uninitCount := by
  have count : (scrubbedHead s d rest).uninitCount =
      countChange ((s.entry d.frame).state == .uninitialized) false s.uninitCount := by
    unfold scrubbedHead
    cases d.notify <;> rfl
  rw [count, scrubbing]
  rfl

theorem scrubTold_request (notify : Option Port) (f : Nat) (p : Port) (u : PortUnit) :
    (scrubTold notify f p u).request = u.request := by
  unfold scrubTold
  split
  · rw [postUnit_touches]
  · rfl

/-- The head frame's waiters served (R130). -/
def scrubServed (s : State) (d : ScrubEntry) (rest : List ScrubEntry) : State :=
  (scrubbedHead s d rest).advance false d.frame

theorem scrubServed_scrubQueue (s : State) (d : ScrubEntry) (rest : List ScrubEntry) :
    (scrubServed s d rest).scrubQueue = rest := by
  rw [scrubServed, (directoryChange_advance _ _ _).1, scrubbedHead_rest]

/-- The next head's burst 0 is posted (R127). -/
theorem completeScrub_next {s : State} {d n : ScrubEntry} {rest : List ScrubEntry} (queue : s.scrubQueue = d :: n :: rest) :
    s.completeScrub = (scrubServed s d (n :: rest)).postScrub n.frame 0 := by
  have left := scrubServed_scrubQueue s d (n :: rest)
  unfold State.completeScrub
  rw [queue]
  show (match (scrubServed s d (n :: rest)).scrubQueue with
    | [] => (scrubServed s d (n :: rest)).sweep
    | n' :: _ => (scrubServed s d (n :: rest)).postScrub n'.frame 0) = _
  rw [left]

/-- With the queue empty the sweep goes on (R133). -/
theorem completeScrub_last {s : State} {d : ScrubEntry} (queue : s.scrubQueue = [d]) :
    s.completeScrub = (scrubServed s d []).sweep := by
  have left := scrubServed_scrubQueue s d []
  unfold State.completeScrub
  rw [queue]
  show (match (scrubServed s d []).scrubQueue with
    | [] => (scrubServed s d []).sweep
    | n' :: _ => (scrubServed s d []).postScrub n'.frame 0) = _
  rw [left]

/-- Nobody waits for the frame: it stays FREE. -/
theorem scrubServed_unwaited {s : State} {d : ScrubEntry} (rest : List ScrubEntry) (empty : (s.entry d.frame).queue = []) :
    scrubServed s d rest = scrubbedHead s d rest :=
  advance_of_queue_nil false (by rw [(effect_scrubbedHead s d rest).entry]; exact empty)

theorem sweep_none {s : State} (none : s.uninitCount = 0) : s.sweep = s := if_neg (by omega)

/-! ### The burst in service is written -/

/-- The part with the words of a scrub burst written. -/
def burstWritten (s : State) (q : ScrubRequest) : State :=
  { s with memory := scrubPlaces q (List.range 8) s.memory }

theorem exec_scrubBurst {s : State} {q : ScrubRequest} (port : s.memPort = .serving (.scrub q)) :
    exec .scrubBurstComplete s = .next (if q.burst < 63 then (burstWritten s q).postScrub q.frame (q.burst + 1)
      else (burstWritten s q).completeScrub).afterService := by
  show execScrubBurstComplete s = _
  unfold execScrubBurstComplete
  split
  next x served =>
    have same : x = q := by simpa using served.symm.trans port
    subst same
    rfl
  next other => exact absurd port (other q)

theorem exec_lastBurst {s : State} {q : ScrubRequest} (port : s.memPort = .serving (.scrub q)) (last : 63 ≤ q.burst)
    {t : State} (completed : (burstWritten s q).completeScrub = t) :
    exec .scrubBurstComplete s = .next t.afterService := by
  rw [exec_scrubBurst port, if_neg (Nat.not_lt.2 last), completed]

theorem completeScrub_memory (s : State) : s.completeScrub.memory = s.memory :=
  edits_memory (B := Scope.noArray) (edits_completeScrub fun _ _ => trivial) id

theorem postScrub_memory (s : State) (f b : Nat) : (s.postScrub f b).memory = s.memory :=
  edits_memory (B := Scope.noArray) (edits_postScrub s f b) id

/-- Settles O58: the last burst serves the head frame, then the next head's burst 0 is posted or the sweep goes on. -/
theorem scrubBurstZeroes : Obligations.ScrubBurstZeroes := by
  intro q s port none due
  have busy : s.memPort ≠ .idle := by rw [port]; exact nofun
  refine ⟨?_, fun more => ?_, fun origin notify last queue scrubbing holders field swept => ⟨fun empty => ?_, fun w only => ?_⟩,
    fun origin notify next rest last queue empty => ?_,
    fun origin notify g last queue empty scrubbing unswept listed state lowest => ?_⟩
  · have memory : ∀ t, (if q.burst < 63 then (burstWritten s q).postScrub q.frame (q.burst + 1)
        else (burstWritten s q).completeScrub) = t → t.afterService.memory = scrubPlaces q (List.range 8) s.memory := by
      rintro t rfl
      rw [(portChange_afterService _).1]
      split
      · exact postScrub_memory _ _ _
      · exact completeScrub_memory _
    refine ⟨_, exec_scrubBurst port, fun i hi => ?_, fun a away => ?_⟩
    · rw [memory _ rfl, readStored_scrubPlaces q _ _ (List.mem_range.2 hi)]
    · rw [memory _ rfl, readStored_scrubPlaces_ne q _ _ fun i hi => away i (List.mem_range.1 hi)]
  · rw [exec_scrubBurst port, if_pos more, postScrub_afterService (s := burstWritten s q) due busy none.2, ← none.1]
    rfl
  · have head := effect_scrubbedHead (burstWritten s q) ⟨q.frame, origin, notify⟩ []
    have kept := scrubbedHead_rest (burstWritten s q) ⟨q.frame, origin, notify⟩ []
    have count := scrubbedHead_uninitCount (s := burstWritten s q) (d := ⟨q.frame, origin, notify⟩) [] scrubbing
    have done := (completeScrub_last (s := burstWritten s q) queue).trans
      (congrArg State.sweep (scrubServed_unwaited [] empty))
    generalize scrubbedHead (burstWritten s q) ⟨q.frame, origin, notify⟩ [] = t at head kept count done
    rw [sweep_none (count.trans swept)] at done
    have ports : ∀ p, (t.unit p).request = .none := fun p => by
      rw [head.units, scrubTold_request]
      exact none.2 p
    have idle := afterService_idle (s := t) (by rw [kept]; exact due) ⟨by rw [kept]; exact none.1, ports⟩
    refine ⟨_, exec_lastBurst port last done, ?_, ?_, ?_, ?_, fun g apart => ?_, fun p => ?_⟩
    · rw [idle]
      exact head.entry
    · rw [idle, kept]
    · rw [idle]
    · rw [idle, kept]
      exact none.1
    · rw [idle]
      exact head.others g apart
    · rw [idle]
      exact head.units p
  · have head := effect_scrubbedHead (burstWritten s q) ⟨q.frame, origin, notify⟩ []
    have kept := scrubbedHead_rest (burstWritten s q) ⟨q.frame, origin, notify⟩ []
    have count := scrubbedHead_uninitCount (s := burstWritten s q) (d := ⟨q.frame, origin, notify⟩) [] scrubbing
    have run := completeScrub_last (s := burstWritten s q) queue
    unfold scrubServed at run
    generalize scrubbedHead (burstWritten s q) ⟨q.frame, origin, notify⟩ [] = u at head kept count run
    have entry : u.entry q.frame = { s.entry q.frame with state := .free } := head.entry
    have granted := effect_grantHead (s := u) (f := q.frame) w false false (.inl (by rw [entry]; exact field))
    have change := (directoryChange_grantHead u q.frame w false false).1
    have uninit := (grantHead_counts (s := u) (f := q.frame) (h := w) (forced := false) (upgraded := false)
      (by rw [entry]; exact field) (by rw [entry]; rfl)).2
    have served := advance_grants_only (s := u) (f := q.frame) (h := w) false (by rw [entry]; exact only)
      (.inl (by rw [entry]))
    generalize u.grantHead q.frame w false false = t at granted change uninit served
    have done : (burstWritten s q).completeScrub = t :=
      run.trans ((congrArg State.sweep served).trans (sweep_none (uninit.trans (count.trans swept))))
    have ports : ∀ p, (t.unit p).request = .none := fun p => by
      rw [granted.units, head.units]
      split
      · rw [grantedTo, postUnit_touches]
        exact (scrubTold_request _ _ _ _).trans (none.2 p)
      · exact (scrubTold_request _ _ _ _).trans (none.2 p)
    have idle := afterService_idle (s := t) (by rw [change, kept]; exact due) ⟨by rw [change, kept]; exact none.1, ports⟩
    refine ⟨_, exec_lastBurst port last done, ?_, ?_, ?_, ?_, fun p => ?_⟩
    · rw [idle]
      refine granted.entry.trans ?_
      rw [entry, Entry.headGranted, holders, only]
      show ({ s.entry q.frame with state := _, holders := _, queue := [], recallField := RecallField.none } : Entry) = _
      rw [← field]
      rfl
    · rw [idle, change, kept]
    · rw [idle]
    · rw [idle]
      exact granted.poolFree.trans (congrArg (· + 1) head.poolFree)
    · rw [idle]
      refine (granted.units p).trans ?_
      rw [head.units, entry, holders, noPorts_get]
      rfl
  · have head := effect_scrubbedHead (burstWritten s q) ⟨q.frame, origin, notify⟩ (next :: rest)
    have kept := scrubbedHead_rest (burstWritten s q) ⟨q.frame, origin, notify⟩ (next :: rest)
    have done := (completeScrub_next (s := burstWritten s q) queue).trans
      (congrArg (State.postScrub · next.frame 0) (scrubServed_unwaited (next :: rest) empty))
    generalize scrubbedHead (burstWritten s q) ⟨q.frame, origin, notify⟩ (next :: rest) = t at head kept done
    have ports : ∀ p, (t.unit p).request = .none := fun p => by
      rw [head.units, scrubTold_request]
      exact none.2 p
    have posted := postScrub_afterService (s := t) (by rw [kept]; exact due) (by rw [kept]; exact busy) ports next.frame 0
    refine ⟨_, exec_lastBurst port last done, ?_, ?_, ?_, ?_, ?_, ?_, fun g apart => ?_, fun p => ?_⟩
    · rw [posted]
      exact head.entry
    · rw [posted, kept]
    · rw [posted]
    · rw [posted]
    · rw [posted]
    · rw [posted]
    · rw [posted]
      exact head.others g apart
    · rw [posted]
      exact head.units p
  · have head := effect_scrubbedHead (burstWritten s q) ⟨q.frame, origin, notify⟩ []
    have kept := scrubbedHead_rest (burstWritten s q) ⟨q.frame, origin, notify⟩ []
    have count := scrubbedHead_uninitCount (s := burstWritten s q) (d := ⟨q.frame, origin, notify⟩) [] scrubbing
    have done := (completeScrub_last (s := burstWritten s q) queue).trans
      (congrArg State.sweep (scrubServed_unwaited [] empty))
    generalize scrubbedHead (burstWritten s q) ⟨q.frame, origin, notify⟩ [] = u at head kept count done
    have apart : g ≠ q.frame := fun same => by
      rw [same, scrubbing] at state
      cases state
    have entry : ∀ h, h ≠ q.frame → u.entry h = s.entry h := head.others
    have lowestNow : u.lowestInState .uninitialized = some g := by
      refine lowestInState_eq_some (by rw [kept]; exact listed) (by rw [entry g apart]; exact state) fun h before => ?_
      by_cases same : h = q.frame
      · rw [same, head.entry]
        exact nofun
      · rw [entry h same]
        exact lowest h before
    have sweeps : u.sweep = u.appendScrub g .sweep Option.none := by
      rw [State.sweep, if_pos (by rw [count]; exact unswept), lowestNow]
    have ended : u.scrubQueue = [] := by rw [kept]
    have eq := appendScrub_busy (s := u) (by rw [kept]; exact busy) g .sweep Option.none
    have appended := appendScrub_entry u g .sweep Option.none
    rw [sweeps] at done
    generalize u.appendScrub g .sweep Option.none = t at eq appended done
    have ports : ∀ p, (t.unit p).request = .none := fun p => by
      have unit : t.unit p = u.unit p := by
        rw [eq]
        exact putEntry_unit_same (by rfl)
      rw [unit, head.units, scrubTold_request]
      exact none.2 p
    have service := afterService_scrub (s := t) (v := ⟨g, 0⟩) (by rw [eq, kept]; exact due)
      ((congrArg State.scrubRequest eq).trans (if_pos ended)) ports
    have final : ∀ h, t.afterService.entry h = t.entry h := fun h => by
      rw [service]
      rfl
    refine ⟨_, exec_lastBurst port last done, ?_, ?_, ?_, ?_, ?_, ?_, ?_, ?_, fun h away other => ?_⟩
    · rw [final, appended, if_neg (Ne.symm apart), head.entry]
      rfl
    · rw [final, appended, if_pos rfl, entry g apart]
    · rw [service]
      refine (congrArg State.uninitCount eq).trans ?_
      show countChange ((u.entry g).state == .uninitialized) _ u.uninitCount = _
      rw [entry g apart, state, count]
      rfl
    · rw [service]
      refine (congrArg State.scrubQueue eq).trans ?_
      show u.scrubQueue ++ _ = _
      rw [ended]
      rfl
    · rw [service]
      exact (congrArg State.burst eq).trans (if_pos ended)
    · rw [service]
    · rw [service]
    · rw [service]
    · rw [final, appended, if_neg other, entry h away]

end Sys2Proof.Proofs
end
